-- ==== Sys2Proof/Word.lean ====
section
/-!
DEFINITION. The values every rule speaks of: bytes, byte sequences, moments of time and I/O causes (00_scope.md
section 6.1, rule R7; 92_eei_decisions.md D10, D20).
-/

namespace Sys2Proof

/-- A byte, `0 .. 255` (00_scope.md section 6.1). No rule looks inside one. -/
abbrev Byte := BitVec 8

/-- A finite byte sequence, index 0 first. -/
abbrev Bytes := List Byte

/-- R7: a count of clock ticks, an unbounded natural number. Additions never wrap. -/
abbrev Time := Nat

/-- R14, D20: what the transport hands over with an I/O failure. Opaque to the block, which passes it on
unchanged; the number only tells one cause from another (log 14). -/
structure IoCause where
  id : Nat
  deriving DecidableEq, Repr, Inhabited

end Sys2Proof
end

