-- ==== Sys2Proof/Config.lean ====
section
/-!
DEFINITION. What an implementation or the environment fixes: the parameters of 00_scope.md section 5, the types of the
transport's answers (42_transport.md), and the free values. A free value is an opaque constant without a body: no proof
can see what it is, so a theorem about it holds whatever it is.
-/

namespace Sys2Proof

/-- The name of a known command (R9). The source prints one, `GetAngles` (R55); further names of the registry's table
are told apart by a number (log 15). -/
inductive CommandName where
  | getAngles
  | other (n : Nat)
  deriving DecidableEq, Repr, Inhabited

/-- Where DECODE checks for a length field below 2 (D6): `late` is step 7a, `early` step 4a. -/
inductive LenCheck where
  | late
  | early
  deriving DecidableEq, Repr, Inhabited

/-- What the engine does with a clean end-of-stream (R126, D9). -/
inductive EosPolicy where
  | asNoData
  | asIoFailure
  deriving DecidableEq, Repr, Inhabited

/-- When the timeout starts to count (R92, D3). -/
inductive DeadlineOrigin where
  | beforeWrite
  | afterFlush
  deriving DecidableEq, Repr, Inhabited

/-- The implementation parameters (00_scope.md section 5), fixed for the life of the block. -/
structure Params where
  /-- `RETRY_INTERVAL` (R5). -/
  retryInterval : Time
  /-- `RD_MAX` (R6). -/
  rdMax : Nat
  /-- `KNOWN` (R9): the registry's table of known commands. -/
  known : List (CommandName × Byte)
  /-- `LEN_CHECK` (D6). -/
  lenCheck : LenCheck
  /-- `EOS_POLICY` (D9). -/
  eosPolicy : EosPolicy
  /-- `DEADLINE_ORIGIN` (D3). -/
  deadlineOrigin : DeadlineOrigin
  deriving DecidableEq, Repr

/-- The parameters are in their ranges. -/
structure Params.wf (p : Params) : Prop where
  /-- R5. -/
  retryInterval : 1 ≤ p.retryInterval
  /-- R6. -/
  rdMax : 1 ≤ p.rdMax
  /-- R9, R55. -/
  getAngles : (CommandName.getAngles, (0x20#8 : Byte)) ∈ p.known
  /-- R73: no name stands in the table twice. -/
  names : (p.known.map Prod.fst).Nodup
  /-- R73, corner cases: two names never share an opcode. -/
  opcodes : (p.known.map Prod.snd).Nodup

/-- The answer to a T.WRITE (R121). With a failure comes how many bytes of the frame the transport had accepted, which
the block is not told (R39, D18, log 16). -/
inductive WriteAnswer where
  | ok
  | fail (e : IoCause) (accepted : Nat)
  deriving DecidableEq, Repr, Inhabited

/-- The answer to a T.FLUSH (R122). -/
inductive FlushAnswer where
  | ok
  | fail (e : IoCause)
  deriving DecidableEq, Repr, Inhabited

/-- The answer to a T.READ (R123). -/
inductive ReadAnswer where
  | data (bs : Bytes)
  | noData
  | eos
  | fatal (e : IoCause)
  deriving DecidableEq, Repr, Inhabited

/-- A drawn answer to a T.READ that is inside the types of R124 whatever it holds: `data` has a first byte, and only as
many more as the reader's buffer takes are delivered. -/
inductive FreeRead where
  | data (first : Byte) (more : Bytes)
  | noData
  | eos
  | fatal (e : IoCause)
  deriving DecidableEq, Repr, Inhabited

/-- The answer a draw stands for, given the size of the buffer offered. -/
def FreeRead.answer (max : Nat) : FreeRead → ReadAnswer
  | .data b more => .data (b :: more.take (max - 1))
  | .noData => .noData
  | .eos => .eos
  | .fatal e => .fatal e

/-- OPEN (R5): `RETRY_INTERVAL` less 1. -/
opaque Config.retryIntervalLessOne : Nat
/-- OPEN (R6): `RD_MAX` less 1. -/
opaque Config.rdMaxLessOne : Nat
/-- OPEN (R9): what the registry's table lists besides `GetAngles`. -/
opaque Config.otherCommands : List (Nat × Byte)
/-- The environment's clock when the block is reset (R25, R27). -/
opaque Config.clockAtReset : Time
/-- A free draw (R124): the answer to a T.WRITE. -/
opaque Config.freeWrite : Nat → WriteAnswer
/-- A free draw (R124): the answer to a T.FLUSH. -/
opaque Config.freeFlush : Nat → FlushAnswer
/-- A free draw (R124): the answer to a T.READ. -/
opaque Config.freeRead : Nat → FreeRead
/-- A free draw (R7, U11): how far the clock moves before a look at it. -/
opaque Config.freeAdvance : Nat → Time
/-- A free value: the cause reported for a clean end-of-stream under `EOS_POLICY = as_io_failure` (R126, log 2). -/
opaque Config.eosCause : Nat → IoCause

/-- A free value: the byte of a known name that the registry's table does not list, which R72 leaves unsaid (log 15). -/
opaque Config.unlistedOpcode : CommandName → Byte

/-- A table without a repeated name or opcode: an entry is added only when both are new (R73). -/
def Config.addEntry (known : List (CommandName × Byte)) (entry : Nat × Byte) : List (CommandName × Byte) :=
  if .other entry.1 ∈ known.map Prod.fst ∨ entry.2 ∈ known.map Prod.snd then known
  else known ++ [(.other entry.1, entry.2)]

/-- `KNOWN` of this implementation: `GetAngles ↦ 0x20` (R55) and whatever else its registry lists. -/
def Config.known : List (CommandName × Byte) :=
  Config.otherCommands.foldl Config.addEntry [(.getAngles, 0x20#8)]

/-- The parameters of this implementation (00_scope.md section 5): the open ones free, the others as the table has them. -/
def Config.params : Params where
  retryInterval := Config.retryIntervalLessOne + 1
  rdMax := Config.rdMaxLessOne + 1
  known := Config.known
  lenCheck := .late
  eosPolicy := .asNoData
  deadlineOrigin := .beforeWrite

end Sys2Proof
end

