-- ==== Sys2Proof/Syntax.lean ====
section
/-!
DEFINITION. The instructions: one constructor per row of spec/opcode_table.json, and the values they carry.
-/

namespace Sys2Proof

/-- R10, R11: a command, as its one-byte opcode, and a payload. -/
structure Packet where
  cmd : Byte
  payload : Bytes
  deriving DecidableEq, Repr, Inhabited

/-- R72, R73: a semantic command, known to the registry or carried through as its opcode byte. -/
inductive Command where
  | known (name : CommandName)
  | unknown (opcode : Byte)
  deriving DecidableEq, Repr, Inhabited

/-- R13: why no frame starts at index 0. -/
inductive Reason where
  | badHeader
  | badFooter
  | lengthTooSmall
  deriving DecidableEq, Repr, Inhabited

/-- R12: the result of DECODE. -/
inductive Verdict where
  | complete (pkt : Packet) (consumed : Nat)
  | incomplete
  | invalid (reason : Reason)
  deriving DecidableEq, Repr, Inhabited

/-- One row of spec/opcode_table.json each, in the table's order. -/
inductive Instr where
  /-- FRAME (R50): a whole frame at the front of the received bytes. -/
  | frame (cmd : Byte) (payload : Bytes)
  /-- GET_ANGLES (R55): the frame whose opcode is `0x20`. -/
  | getAngles (payload : Bytes)
  /-- ENCODE (R70). -/
  | encode (cmd : Byte) (payload : Bytes)
  /-- DECODE (R71). -/
  | decode (b : Bytes)
  /-- OPCODE_OF (R72). -/
  | opcodeOf (command : Command)
  /-- COMMAND_OF (R73). -/
  | commandOf (b : Byte)
  /-- SEND_AND_AWAIT (R90). -/
  | sendAndAwait (cmd : Byte) (payload : Bytes) (timeout : Time)
  /-- XE.CALL (R91, R92). -/
  | xeCall (cmd : Byte) (payload : Bytes) (timeout : Time)
  /-- XE.WRITE (R93). -/
  | xeWrite
  /-- XE.FLUSH (R94). -/
  | xeFlush
  /-- XE.ENTER (R95). -/
  | xeEnter
  /-- XE.CHECK (R96). -/
  | xeCheck
  /-- XE.READ (R97). -/
  | xeRead
  /-- XE.WAIT (R98). -/
  | xeWait
  /-- XE.DECODE (R99 to R104). -/
  | xeDecode
  /-- XE.RETURN (R107). -/
  | xeReturn
  /-- T.WRITE (R121). -/
  | tWrite (bytes : Bytes)
  /-- T.FLUSH (R122). -/
  | tFlush
  /-- T.READ (R123). -/
  | tRead (max : Nat)
  deriving DecidableEq, Repr

/-- What the host may issue (00_scope.md section 4 item 8; R23, R90, R92): the codec and registry functions, the
engine's call as one transaction, and the whole blocking operation. -/
inductive HostOp where
  | encode (cmd : Byte) (payload : Bytes)
  | decode (b : Bytes)
  | opcodeOf (command : Command)
  | commandOf (b : Byte)
  | call (cmd : Byte) (payload : Bytes) (timeout : Time)
  | sendAndAwait (cmd : Byte) (payload : Bytes) (timeout : Time)
  deriving DecidableEq, Repr

end Sys2Proof
end

