-- ==== Sys2Proof/WellFormed.lean ====
section
/-!
DEFINITION. Which instructions are well formed: the operand ranges the rules require.
-/

namespace Sys2Proof

/-- R4: `MAX_PAYLOAD`. -/
abbrev maxPayload : Nat := 253

/-- R55: the opcode of `GetAngles`. -/
abbrev getAnglesOpcode : Byte := 0x20#8

/-- The operand ranges of each instruction. A frame with opcode `0x20` is written GET_ANGLES, the more specific row of
the table (log 10). R10: a frame's payload has at most 253 bytes. R70: so has ENCODE's. R90: a call's may have any
length. R121: T.WRITE is given one whole frame, 5 to 258 bytes. R123, R6: T.READ offers room for at least one byte. -/
def Instr.wellFormed : Instr → Bool
  | .frame cmd payload => payload.length ≤ maxPayload && cmd != getAnglesOpcode
  | .getAngles payload => payload.length ≤ maxPayload
  | .encode _ payload => payload.length ≤ maxPayload
  | .decode _ => true
  | .opcodeOf _ => true
  | .commandOf _ => true
  | .sendAndAwait _ _ _ => true
  | .xeCall _ _ _ => true
  | .xeWrite => true
  | .xeFlush => true
  | .xeEnter => true
  | .xeCheck => true
  | .xeRead => true
  | .xeWait => true
  | .xeDecode => true
  | .xeReturn => true
  | .tWrite bytes => 5 ≤ bytes.length && bytes.length ≤ 258
  | .tFlush => true
  | .tRead max => 1 ≤ max

end Sys2Proof
end

