-- ==== Sys2Proof/Decode.lean ====
section
/-!
DEFINITION. The Frame Codec (30_encoding.md, 40_codec.md): DECODE and ENCODE on byte sequences, and the decoder and
encoder of instructions built on them. Both are pure (R74).
-/

namespace Sys2Proof

/-- R4: each of the two bytes of `HEADER`. -/
def headerByte : Byte := 0xFE#8

/-- R4: `FOOTER`. -/
def footerByte : Byte := 0xFA#8

/-- `b[i]`, used only where `i < len(b)` has been established (R71, exceptions). -/
def byteAt (b : Bytes) (i : Nat) : Byte := b.getD i 0#8

/-- R71: DECODE, step by step, with the place of the length check as a parameter (steps 4a and 7a). -/
def decodeBytes (lenCheck : LenCheck) (b : Bytes) : Verdict :=
  if b.length < 2 then .incomplete
  else if byteAt b 0 ≠ headerByte ∨ byteAt b 1 ≠ headerByte then .invalid .badHeader
  else if b.length < 3 then .incomplete
  else if lenCheck = .early ∧ (byteAt b 2).toNat < 2 then .invalid .lengthTooSmall
  else if b.length < 3 + (byteAt b 2).toNat then .incomplete
  else if byteAt b (3 + (byteAt b 2).toNat - 1) ≠ footerByte then .invalid .badFooter
  else if (byteAt b 2).toNat < 2 then .invalid .lengthTooSmall
  else
    .complete { cmd := byteAt b 3, payload := (b.drop 4).take ((byteAt b 2).toNat - 2) }
      (3 + (byteAt b 2).toNat)

/-- R70: the frame of a packet. The length byte is `len(payload) + 2`, which fits when `len(payload) <= 253`. -/
def encodePacket (cmd : Byte) (payload : Bytes) : Bytes :=
  [headerByte, headerByte, BitVec.ofNat 8 (payload.length + 2), cmd] ++ payload ++ [footerByte]

/-- The instruction a packet is: GET_ANGLES for opcode `0x20` (R55), FRAME for every other (R50, R56). -/
def packetInstr (pkt : Packet) : Instr :=
  if pkt.cmd = getAnglesOpcode then .getAngles pkt.payload else .frame pkt.cmd pkt.payload

/-- The decoder of instructions: the frame at the front of a byte sequence. Anything DECODE does not answer `Complete`
for is rejected; the verdict names why. -/
def decodeInstr (lenCheck : LenCheck) (b : Bytes) : Option Instr :=
  match decodeBytes lenCheck b with
  | .complete pkt _ => some (packetInstr pkt)
  | .incomplete => none
  | .invalid _ => none

/-- The decoder with the bytes that follow the frame. -/
def decodeInstrRest (lenCheck : LenCheck) (b : Bytes) : Option (Instr × Bytes) :=
  match decodeBytes lenCheck b with
  | .complete pkt n => some (packetInstr pkt, b.drop n)
  | .incomplete => none
  | .invalid _ => none

/-- The encoder of instructions: the bytes of a frame. The operations have no bit pattern (30_encoding.md section 3). -/
def encodeInstr : Instr → Option Bytes
  | .frame cmd payload => some (encodePacket cmd payload)
  | .getAngles payload => some (encodePacket getAnglesOpcode payload)
  | .encode _ _ => none
  | .decode _ => none
  | .opcodeOf _ => none
  | .commandOf _ => none
  | .sendAndAwait _ _ _ => none
  | .xeCall _ _ _ => none
  | .xeWrite => none
  | .xeFlush => none
  | .xeEnter => none
  | .xeCheck => none
  | .xeRead => none
  | .xeWait => none
  | .xeDecode => none
  | .xeReturn => none
  | .tWrite _ => none
  | .tFlush => none
  | .tRead _ => none

/-- The `n` bytes of a number of `8 * n` bits, most significant first: opcode_table.json numbers a frame's first bytes
so ("byte 0 is bits 31:24"). -/
def bytesOfNumber : Nat → Nat → Bytes
  | 0, _ => []
  | n + 1, w => BitVec.ofNat 8 (w / 256 ^ n) :: bytesOfNumber n w

/-- What completes the first bytes of a frame: payload bytes of zero and the footer, which the table's encoding column
fixes at the end of the frame but gives no bit numbers (log 9). Nothing for a length field below 2. -/
def frameTail (first : Bytes) : Bytes :=
  if first.length < 3 ∨ (byteAt first 2).toNat < 2 ∨ 3 + (byteAt first 2).toNat ≤ first.length then []
  else List.replicate (2 + (byteAt first 2).toNat - first.length) 0#8 ++ [footerByte]

/-- The bytes of an instruction whose numbered bits are `w`. -/
def tableBytes (nbits w : Nat) : Bytes :=
  bytesOfNumber (nbits / 8) w ++ frameTail (bytesOfNumber (nbits / 8) w)

/-- The instruction the decoder reads from a word of opcode_table.json. -/
def decodeTableWord (nbits w : Nat) : Option Instr := decodeInstr .late (tableBytes nbits w)

end Sys2Proof
end

