-- ==== Sys2Proof/Machine/State.lean ====
section
/-!
DEFINITION. The state of the machine: the block (10_state.md section 2), the parameters it was built with (00_scope.md
section 5), the environment it asks (10_state.md rule R25) and the host that calls it. All of it is plain data.
-/

namespace Sys2Proof.Machine

/-- R15: the control state. -/
inductive Phase where
  | idle
  | sendWrite
  | sendFlush
  | sent
  | awaitCheck
  | awaitRead
  | awaitWait
  | awaitDecode
  | done
  deriving DecidableEq, Repr, Inhabited

/-- R14, R130: what one call returns. -/
inductive CallOutcome where
  | ok (payload : Bytes)
  | timedOut
  | ioFailed (e : IoCause)
  | invalidParameter
  deriving DecidableEq, Repr, Inhabited

/-- R29: one transaction at a port, with the values exchanged (log 13). -/
inductive Transaction where
  /-- `H.CALL`. -/
  | hCall (cmd : Byte) (payload : Bytes) (timeout : Time)
  /-- `H.RET`. -/
  | hRet (outcome : CallOutcome)
  /-- `H.ENCODE`: operands and result. -/
  | hEncode (cmd : Byte) (payload : Bytes) (out : Bytes)
  /-- `H.DECODE`: operand and result. -/
  | hDecode (b : Bytes) (out : Verdict)
  /-- The registry's `opcode_of` (R72). -/
  | opcodeOf (command : Command) (out : Byte)
  /-- The registry's `command_of` (R73). -/
  | commandOf (b : Byte) (out : Command)
  /-- `T.WRITE`: the bytes and the transport's answer. -/
  | tWrite (bytes : Bytes) (answer : WriteAnswer)
  /-- `T.FLUSH`. -/
  | tFlush (answer : FlushAnswer)
  /-- `T.READ`: the size of the buffer offered and the answer. -/
  | tRead (max : Nat) (answer : ReadAnswer)
  /-- `CLK`: what `now()` answered. -/
  | clk (now : Time)
  deriving DecidableEq, Repr

/-- R25: the transport and the clock, which the block sees only through their answers. Answers the environment has
settled on stand in the lists, next one first (a scripted transport, R128); past their end each answer is a free draw
of Config, numbered by `draws` (log 4). -/
structure Env where
  /-- R7: the clock as last looked at. -/
  now : Time
  /-- How far the clock moves before each coming look (U11). -/
  advances : List Time
  /-- The answers to the coming T.WRITE (R121). -/
  writes : List WriteAnswer
  /-- The answers to the coming T.FLUSH (R122). -/
  flushes : List FlushAnswer
  /-- The answers to the coming T.READ (R123): the RX stream as the transport cuts it. -/
  reads : List ReadAnswer
  /-- R128, R64: what every T.READ past the end of `reads` answers, for an eventually constant script (`N*`); none for
  free draws. -/
  readsThen : Option ReadAnswer
  /-- U16: the transport never answers the next operation. -/
  mute : Bool
  /-- R30, R39: the TX stream, every byte the transport has accepted, oldest first. -/
  tx : Bytes
  /-- How many free draws have been made. -/
  draws : Nat
  deriving DecidableEq, Repr

/-- The state of the machine. -/
structure State where
  /-- R15. -/
  phase : Phase
  /-- R16: the request's opcode. -/
  reqCmd : Byte
  /-- R16: the request's payload. -/
  reqPayload : Bytes
  /-- R17. -/
  deadline : Time
  /-- R18. -/
  waitUntil : Time
  /-- R19: the accumulation buffer, oldest byte first. -/
  buf : Bytes
  /-- R20. -/
  result : CallOutcome
  /-- R21, ghost: bytes removed from the front of `buf` during the current call. -/
  rxBase : Nat
  /-- R21, ghost: bytes the transport has delivered during the current call. -/
  rxSeen : Nat
  /-- R21, ghost: those bytes. -/
  rx : Bytes
  /-- 00_scope.md section 5: the parameters, never written (log 1). -/
  par : Params
  /-- What the host will issue, next one first (log 8). -/
  program : List HostOp
  /-- R25. -/
  env : Env
  /-- R29: the transactions so far, newest first (log 13). -/
  trace : List Transaction
  deriving DecidableEq, Repr

/-- Why the machine stops with no next step. -/
inductive Fault where
  /-- Raised by T.WRITE, T.FLUSH, T.READ and the micro-operations that issue them when the transport never answers
  (93_implementation_defined.md U16: "stuck if it happened"). Safe: nothing is proved of a run past it. -/
  | transportNeverAnswers
  deriving DecidableEq, Repr

/-- Which situations have no meaning (93_implementation_defined.md, treatment "refuse"). -/
inductive Refusal where
  /-- Raised by `exec` for an instruction without a meaning. Safe. -/
  | notModelled (mnemonic : String)
  /-- Raised by XE.CALL and SEND_AND_AWAIT while a call is in progress (U17, R91, R170). Safe. -/
  | notReentrant
  /-- Raised by a micro-operation or a frame presented in a phase other than its guard's: there is no such step
  (R93 to R107, R106). Safe. -/
  | notEnabled
  /-- Raised by ENCODE, and by XE.WRITE on a latch no call can have filled, for a payload over 253 bytes (U1, R70,
  D17). Safe. -/
  | encodeOversize
  /-- Raised by T.READ and XE.READ when the transport answers outside its types (U21, R124, D22). Safe. -/
  | answerOutsideTypes
  /-- Raised by T.WRITE, T.FLUSH and T.READ outside the phase in which the engine issues them (U10, R44, R120). Safe. -/
  | transportNotOwned
  /-- Raised by FRAME and GET_ANGLES when the frame does not stand at the front of the buffer (R71, R101). Safe. -/
  | frameNotInBuffer
  /-- Raised by OPCODE_OF for `Unknown(b)` with `b` the opcode of a known command, a value that COMMAND_OF never answers
  and that cannot be presented (U7, D2, R11). Safe. -/
  | unknownOfKnown
  /-- Raised by a reset of the block while a call is in progress (U18, R162) or its result is not taken (log 26). Safe. -/
  | resetInCall
  deriving DecidableEq, Repr

/-- The environment beside a block that has just been reset (R27, R161): its clock is where it was, the transport will
answer, and nothing of what it will answer is settled (log 4, log 5, log 17). -/
def Env.atReset : Env where
  now := Config.clockAtReset
  advances := []
  writes := []
  flushes := []
  reads := []
  readsThen := none
  mute := false
  tx := []
  draws := 0

/-- R27, R160: the block after reset, with its parameters and beside an environment (R161). The latches, for which the
rule gives no value, hold the values of log 3. -/
def State.resetBeside (par : Params) (env : Env) : State where
  phase := .idle
  reqCmd := 0#8
  reqPayload := []
  deadline := 0
  waitUntil := 0
  buf := []
  result := .ok []
  rxBase := 0
  rxSeen := 0
  rx := []
  par := par
  program := []
  env := env
  trace := []

/-- R27, R160: the state after reset. -/
def State.reset : State := State.resetBeside Config.params Env.atReset

end Sys2Proof.Machine
end

