-- ==== Sys2Proof/Machine/Operands.lean ====
section
/-!
DEFINITION. Operands: what a request's payload must satisfy, which answers are inside the types, what the host's
operations stand for, and the registry's table (R72, R73, R81, R91, R124).
-/

namespace Sys2Proof.Machine

/-- R91, R134: the one precondition on a request, `len(payload) <= 253`. -/
def payloadFits (payload : Bytes) : Bool := payload.length ≤ maxPayload

/-- R124: an answer inside the types. `Data` holds 1 to `max` bytes. -/
def answerInTypes (max : Nat) : ReadAnswer → Bool
  | .data bs => 1 ≤ bs.length && bs.length ≤ max
  | .noData => true
  | .eos => true
  | .fatal _ => true

/-- R39, D18: the bytes the transport accepts of a write it answers so: all, or the prefix the failure drew. -/
def acceptedBytes (bytes : Bytes) : WriteAnswer → Bytes
  | .ok => bytes
  | .fail _ n => bytes.take n

/-- R123, R6: the size of the buffer a T.READ offers: what it asks for, and never more than `RD_MAX` (log 12). -/
def readLimit (par : Params) (max : Nat) : Nat := min max par.rdMax

/-- R72: the byte of a name in the registry's table. OPEN: for a name the table does not list, a free value (log 15). -/
def opcodeOfName (known : List (CommandName × Byte)) (name : CommandName) : Byte :=
  match known.find? fun entry => entry.1 == name with
  | some entry => entry.2
  | none => Config.unlistedOpcode name

/-- R72: OPCODE_OF. No value for `Unknown(b)` with `b` in the table (R11, U7). -/
def opcodeOfCommand (known : List (CommandName × Byte)) : Command → Option Byte
  | .known name => some (opcodeOfName known name)
  | .unknown b => if b ∈ known.map Prod.snd then none else some b

/-- R73: COMMAND_OF. -/
def commandOfByte (known : List (CommandName × Byte)) (b : Byte) : Command :=
  match known.find? fun entry => entry.2 == b with
  | some entry => .known entry.1
  | none => .unknown b

/-- The instruction a host operation issues. -/
def hostInstr : HostOp → Instr
  | .encode cmd payload => .encode cmd payload
  | .decode b => .decode b
  | .opcodeOf c => .opcodeOf c
  | .commandOf b => .commandOf b
  | .call cmd payload timeout => .xeCall cmd payload timeout
  | .sendAndAwait cmd payload timeout => .sendAndAwait cmd payload timeout

/-- R23, P16: the operations the host may issue in any phase; the others wait for Idle (R91). -/
def hostOpAnyPhase : HostOp → Bool
  | .encode _ _ => true
  | .decode _ => true
  | .opcodeOf _ => true
  | .commandOf _ => true
  | .call _ _ _ => false
  | .sendAndAwait _ _ _ => false

end Sys2Proof.Machine
end

