-- ==== Sys2Proof/Machine/Flags.lean ====
section
/-!
DEFINITION. The block has no flag register (R22). What comes nearest is computed here each time it is needed: the
verdict on the buffer, the match bit, the two timer comparisons (R148), and the numeric codes of R15 and R138.
-/

namespace Sys2Proof.Machine

/-- R22, R99: the verdict of DECODE on the accumulation buffer. -/
def State.verdict (s : State) : Verdict := decodeBytes s.par.lenCheck s.buf

/-- R22, R102: the match bit, equality of opcode bytes (R11). -/
def State.matchBit (s : State) (pkt : Packet) : Bool := pkt.cmd == s.reqCmd

/-- R96, R148: `now() >= S.deadline`, on the clock as last looked at. -/
def State.deadlineReached (s : State) : Bool := s.deadline ≤ s.env.now

/-- R98, R148: `now() >= S.wait_until`. -/
def State.waitOver (s : State) : Bool := s.waitUntil ≤ s.env.now

/-- R15, D14: the codes of the phases. Not architected. -/
def Phase.code : Phase → Nat
  | .idle => 0
  | .sendWrite => 1
  | .sendFlush => 2
  | .sent => 3
  | .awaitCheck => 4
  | .awaitRead => 5
  | .awaitWait => 6
  | .awaitDecode => 7
  | .done => 8

/-- R138: the codes of the outcomes. -/
def CallOutcome.code : CallOutcome → Nat
  | .ok _ => 0
  | .timedOut => 1
  | .ioFailed _ => 2
  | .invalidParameter => 3

/-- R138: the codes of the verdicts. -/
def verdictCode : Verdict → Nat
  | .incomplete => 0
  | .complete _ _ => 1
  | .invalid _ => 2

/-- R138: the codes of the reasons. -/
def reasonCode : Reason → Nat
  | .badHeader => 0
  | .badFooter => 1
  | .lengthTooSmall => 2

end Sys2Proof.Machine
end

