-- ==== Sys2Proof/Machine/Ops.lean ====
section
/-!
DEFINITION. The named operations on the state that the meanings are made of: looking at the clock, asking the
transport, the three operations on the buffer, the request latches, ending a call and returning from it.
-/

namespace Sys2Proof.Machine

/-! ### The ports -/

/-- R29: a transaction has taken place. -/
def State.record (s : State) (t : Transaction) : State := { s with trace := t :: s.trace }

/-- The clock at the next look (R7, U11): where it was, moved on by a draw. -/
def Env.nextNow (e : Env) : Time :=
  match e.advances with
  | d :: _ => e.now + d
  | [] => e.now + Config.freeAdvance e.draws

/-- The environment after the clock has been looked at. -/
def Env.look (e : Env) : Env :=
  match e.advances with
  | _ :: ds => { e with now := e.nextNow, advances := ds }
  | [] => { e with now := e.nextNow, draws := e.draws + 1 }

/-- `now()` (R7): the clock is looked at; the answer stands in `env.now`. -/
def State.look (s : State) : State :=
  { s with env := s.env.look, trace := .clk s.env.nextNow :: s.trace }

/-- R121: the transport's answer to the next T.WRITE. -/
def Env.writeAnswer (e : Env) : WriteAnswer :=
  match e.writes with
  | a :: _ => a
  | [] => Config.freeWrite e.draws

/-- R39, R121: the environment after a T.WRITE: the accepted bytes have joined the TX stream. -/
def Env.afterWrite (e : Env) (bytes : Bytes) : Env :=
  match e.writes with
  | a :: as => { e with writes := as, tx := e.tx ++ acceptedBytes bytes a }
  | [] => { e with draws := e.draws + 1, tx := e.tx ++ acceptedBytes bytes (Config.freeWrite e.draws) }

/-- T.WRITE has been asked and has answered `s.env.writeAnswer`. -/
def State.issueWrite (s : State) (bytes : Bytes) : State :=
  { s with env := s.env.afterWrite bytes, trace := .tWrite bytes s.env.writeAnswer :: s.trace }

/-- R122: the transport's answer to the next T.FLUSH. -/
def Env.flushAnswer (e : Env) : FlushAnswer :=
  match e.flushes with
  | a :: _ => a
  | [] => Config.freeFlush e.draws

/-- R122: the environment after a T.FLUSH. -/
def Env.afterFlush (e : Env) : Env :=
  match e.flushes with
  | _ :: as => { e with flushes := as }
  | [] => { e with draws := e.draws + 1 }

/-- T.FLUSH has been asked and has answered `s.env.flushAnswer`. -/
def State.issueFlush (s : State) : State :=
  { s with env := s.env.afterFlush, trace := .tFlush s.env.flushAnswer :: s.trace }

/-- R123, R128: the transport's answer to the next T.READ. -/
def Env.readAnswer (e : Env) (max : Nat) : ReadAnswer :=
  match e.reads with
  | a :: _ => a
  | [] =>
    match e.readsThen with
    | some a => a
    | none => (Config.freeRead e.draws).answer max

/-- R38: the environment after a T.READ: what was delivered is gone. The constant end of a script stays (R128). -/
def Env.afterRead (e : Env) : Env :=
  match e.reads with
  | _ :: as => { e with reads := as }
  | [] =>
    match e.readsThen with
    | some _ => e
    | none => { e with draws := e.draws + 1 }

/-- T.READ has been asked and has answered `s.env.readAnswer max`. -/
def State.issueRead (s : State) (max : Nat) : State :=
  { s with env := s.env.afterRead, trace := .tRead max (s.env.readAnswer max) :: s.trace }

/-! ### The accumulation buffer (R37) -/

/-- `BufAppend(bs)` for delivered bytes (R97), with its ghosts. -/
def State.bufAppend (s : State) (bs : Bytes) : State :=
  { s with buf := s.buf ++ bs, rxSeen := s.rxSeen + bs.length, rx := s.rx ++ bs }

/-- `BufDrop(n)` (R100, R101), with its ghost. -/
def State.bufDrop (s : State) (n : Nat) : State :=
  { s with buf := s.buf.drop n, rxBase := s.rxBase + n }

/-- `BufClear()` (R47). -/
def State.bufClear (s : State) : State := { s with buf := [] }

/-! ### The request latches -/

/-- R92: the operands latched, the buffer empty, the ghosts at 0. -/
def State.latch (s : State) (cmd : Byte) (payload : Bytes) (deadline : Time) : State :=
  { s with
    reqCmd := cmd, reqPayload := payload, deadline := deadline, buf := [], rxBase := 0, rxSeen := 0, rx := [],
    phase := .sendWrite }

/-- R92: the call accepted. With `DEADLINE_ORIGIN = after_flush` (D3) the clock is not looked at yet and the latch
keeps the timeout until the flush has answered (log 2). -/
def State.acceptCall (s : State) (cmd : Byte) (payload : Bytes) (timeout : Time) : State :=
  match s.par.deadlineOrigin with
  | .beforeWrite => s.look.latch cmd payload (s.env.nextNow + timeout)
  | .afterFlush => s.latch cmd payload timeout

/-- R94: the flush has succeeded. With `DEADLINE_ORIGIN = after_flush` the timeout starts to count here (D3). -/
def State.requestSent (s : State) : State :=
  match s.par.deadlineOrigin with
  | .beforeWrite => { s with phase := .sent }
  | .afterFlush => { s.look with deadline := s.env.nextNow + s.deadline, phase := .sent }

/-- R97: the retry wait armed, `S.wait_until <- now() + RETRY_INTERVAL`. -/
def State.armWait (s : State) : State :=
  { s.look with waitUntil := s.env.nextNow + s.par.retryInterval, phase := .awaitWait }

/-! ### Ending a call and returning from it -/

/-- R142: `finish o`. -/
def State.finish (s : State) (o : CallOutcome) : State :=
  { s.bufClear with result := o, phase := .done }

/-- R107, R144: the host receives the result; nothing is restored. -/
def State.handBack (s : State) : State :=
  { s with phase := .idle, trace := .hRet s.result :: s.trace }

/-- R160, R161: the block is reset between calls. The block's fields take their reset values; the environment, the
parameters, the host's operations and the record stay as they are (log 26). In mid-call it is no step (R162); that it is
refused in Done too, before the result is taken, is the model's DESIGN CHOICE (log 26). -/
def State.resetBlock (s : State) : Host.Outcome State Fault Refusal :=
  if s.phase ≠ .idle then .refused .resetInCall
  else .next { State.resetBeside s.par s.env with program := s.program, trace := s.trace }

/-- R126: a clean end-of-stream, by policy. -/
def State.endOfStream (s : State) : State :=
  match s.par.eosPolicy with
  | .asNoData => s.armWait
  | .asIoFailure =>
    { s with env := { s.env with draws := s.env.draws + 1 } }.finish (.ioFailed (Config.eosCause s.env.draws))

/-- R101 to R103: a complete frame of `n` bytes at the front is removed, then the match test ends the call or the
remainder is decoded next. -/
def State.takeFrame (s : State) (pkt : Packet) (n : Nat) : State :=
  if s.matchBit pkt then (s.bufDrop n).finish (.ok pkt.payload)
  else { s.bufDrop n with phase := .awaitDecode }

end Sys2Proof.Machine
end

