-- ==== Sys2Proof/Machine/Engine.lean ====
section
/-!
DEFINITION. The micro-operations of the Exchange Engine (41_exchange_engine.md R91 to R107), one definition each: the
guard on the phase, then the effect.
-/

namespace Sys2Proof.Machine

/-- XE.CALL (R91, R92). The parameter test comes before everything else, the clock included (D26). -/
def execXeCall (cmd : Byte) (payload : Bytes) (timeout : Time) (s : State) : Host.Outcome State Fault Refusal :=
  if s.phase ≠ .idle then .refused .notReentrant
  else if payloadFits payload then .next ((s.record (.hCall cmd payload timeout)).acceptCall cmd payload timeout)
  else .next { s.record (.hCall cmd payload timeout) with result := .invalidParameter, phase := .done }

/-- XE.WRITE (R93): the whole frame in one T.WRITE. ENCODE's precondition (R70) holds of every latched payload. -/
def execXeWrite (s : State) : Host.Outcome State Fault Refusal :=
  if s.phase ≠ .sendWrite then .refused .notEnabled
  else if !payloadFits s.reqPayload then .refused .encodeOversize
  else if s.env.mute then .fault .transportNeverAnswers
  else
    match s.env.writeAnswer with
    | .ok => .next { s.issueWrite (encodePacket s.reqCmd s.reqPayload) with phase := .sendFlush }
    | .fail e _ => .next ((s.issueWrite (encodePacket s.reqCmd s.reqPayload)).finish (.ioFailed e))

/-- XE.FLUSH (R94). -/
def execXeFlush (s : State) : Host.Outcome State Fault Refusal :=
  if s.phase ≠ .sendFlush then .refused .notEnabled
  else if s.env.mute then .fault .transportNeverAnswers
  else
    match s.env.flushAnswer with
    | .ok => .next s.issueFlush.requestSent
    | .fail e => .next (s.issueFlush.finish (.ioFailed e))

/-- XE.ENTER (R95). -/
def execXeEnter (s : State) : Host.Outcome State Fault Refusal :=
  if s.phase ≠ .sent then .refused .notEnabled
  else .next { s with phase := .awaitCheck }

/-- XE.CHECK (R96): the only test of the deadline. -/
def execXeCheck (s : State) : Host.Outcome State Fault Refusal :=
  if s.phase ≠ .awaitCheck then .refused .notEnabled
  else if s.look.deadlineReached then .next (s.look.finish .timedOut)
  else .next { s.look with phase := .awaitRead }

/-- XE.READ (R97): one T.READ, then the reaction of R123's table. -/
def execXeRead (s : State) : Host.Outcome State Fault Refusal :=
  if s.phase ≠ .awaitRead then .refused .notEnabled
  else if s.env.mute then .fault .transportNeverAnswers
  else if !answerInTypes s.par.rdMax (s.env.readAnswer s.par.rdMax) then .refused .answerOutsideTypes
  else
    match s.env.readAnswer s.par.rdMax with
    | .data bs => .next { (s.issueRead s.par.rdMax).bufAppend bs with phase := .awaitDecode }
    | .noData => .next (s.issueRead s.par.rdMax).armWait
    | .eos => .next (s.issueRead s.par.rdMax).endOfStream
    | .fatal e => .next ((s.issueRead s.par.rdMax).finish (.ioFailed e))

/-- XE.WAIT (R98): held, with nothing but the clock moving, until the wait is over (log 6). -/
def execXeWait (s : State) : Host.Outcome State Fault Refusal :=
  if s.phase ≠ .awaitWait then .refused .notEnabled
  else if s.look.waitOver then .next { s.look with phase := .awaitCheck }
  else .next s.look

/-- XE.DECODE (R99 to R104): one pass of the decode loop. The clock is not read. -/
def execXeDecode (s : State) : Host.Outcome State Fault Refusal :=
  if s.phase ≠ .awaitDecode then .refused .notEnabled
  else
    match s.verdict with
    | .incomplete => .next { s with phase := .awaitCheck }
    | .invalid _ => .next { s.bufDrop 1 with phase := .awaitDecode }
    | .complete pkt n => .next (s.takeFrame pkt n)

/-- XE.RETURN (R107). -/
def execXeReturn (s : State) : Host.Outcome State Fault Refusal :=
  if s.phase ≠ .done then .refused .notEnabled
  else .next s.handBack

end Sys2Proof.Machine
end

