-- ==== Sys2Proof/Machine/Call.lean ====
section
/-!
DEFINITION. SEND_AND_AWAIT (R90) as the run of its micro-operations, and the same call as one sequential program, the
reference behaviour R90 prints.
-/

namespace Sys2Proof.Machine

/-- R106, R26: the one micro-operation the phase enables; none in Idle, where the block waits for a call. -/
def microStep (s : State) : Host.Outcome State Fault Refusal :=
  match s.phase with
  | .idle => .next s
  | .sendWrite => execXeWrite s
  | .sendFlush => execXeFlush s
  | .sent => execXeEnter s
  | .awaitCheck => execXeCheck s
  | .awaitRead => execXeRead s
  | .awaitWait => execXeWait s
  | .awaitDecode => execXeDecode s
  | .done => execXeReturn s

/-- The engine left to run for `n` micro-operations, or until the call has returned. -/
def runCall : Nat → State → Host.Outcome State Fault Refusal
  | 0, s => .next s
  | n + 1, s =>
    if s.phase = .idle then .next s
    else
      match microStep s with
      | .next t => runCall n t
      | .fault r => .fault r
      | .refused r => .refused r

/-- How many bytes the coming reads hold. -/
def pendingBytes : List ReadAnswer → Nat
  | [] => 0
  | .data bs :: as => bs.length + pendingBytes as
  | .noData :: as => pendingBytes as
  | .eos :: as => pendingBytes as
  | .fatal _ :: as => pendingBytes as

/-- How much of a call one step of SEND_AND_AWAIT covers: enough micro-operations for every answer the environment has
settled on. A call that has not returned by then goes on in the following steps (log 11). -/
def callBudget (s : State) : Nat :=
  8 + 4 * s.env.reads.length + pendingBytes s.env.reads + s.env.advances.length

/-- SEND_AND_AWAIT (R90): XE.CALL, then the micro-operations until the host has its outcome. -/
def execSendAndAwait (cmd : Byte) (payload : Bytes) (timeout : Time) (s : State) :
    Host.Outcome State Fault Refusal :=
  match execXeCall cmd payload timeout s with
  | .next t => runCall (callBudget s) t
  | .fault r => .fault r
  | .refused r => .refused r

/-! ### The reference program of R90

Its loops carry a bound, so that they are total; a state they leave off in is a state of the call in progress. -/

/-- `return o`: the call ends (R142) and the host has the outcome (R144). -/
def refReturn (o : CallOutcome) (s : State) : State := (s.finish o).handBack

/-- `inner:` decode, drop or consume, until more bytes are needed or a match returns. -/
def refInner : Nat → State → State
  | 0, s => s
  | n + 1, s =>
    match s.verdict with
    | .incomplete => { s with phase := .awaitCheck }
    | .invalid _ => refInner n (s.bufDrop 1)
    | .complete pkt k =>
      if pkt.cmd = s.reqCmd then refReturn (.ok pkt.payload) (s.bufDrop k)
      else refInner n (s.bufDrop k)

/-- `wait until now() >= wait_until`. -/
def refWait : Nat → State → State
  | 0, s => s
  | n + 1, s =>
    if s.look.env.now < s.look.waitUntil then refWait n s.look
    else { s.look with phase := .awaitCheck }

/-- `match T.READ(RD_MAX):` and the reaction to each answer. `waits` bounds the looks of the wait. -/
def refRead (waits : Nat) (s : State) : Host.Outcome State Fault Refusal :=
  if s.env.mute then .fault .transportNeverAnswers
  else
    match s.env.readAnswer s.par.rdMax with
    | .fatal e => .next (refReturn (.ioFailed e) (s.issueRead s.par.rdMax))
    | .noData => .next (refWait waits (s.issueRead s.par.rdMax).armWait)
    | .eos =>
      match s.par.eosPolicy with
      | .asNoData => .next (refWait waits (s.issueRead s.par.rdMax).armWait)
      | .asIoFailure => .next (s.issueRead s.par.rdMax).endOfStream.handBack
    | .data bs =>
      if 1 ≤ bs.length ∧ bs.length ≤ s.par.rdMax then
        .next
          (refInner (s.buf.length + bs.length + 1)
            { (s.issueRead s.par.rdMax).bufAppend bs with phase := .awaitDecode })
      else .refused .answerOutsideTypes

/-- One pass of `loop:`, the deadline and then the read. -/
def refPass (waits : Nat) (s : State) : Host.Outcome State Fault Refusal :=
  if s.look.deadline ≤ s.look.env.now then .next (refReturn .timedOut s.look)
  else refRead waits { s.look with phase := .awaitRead }

/-- `loop:` until the call has returned, or a bound is met. -/
def refLoop (waits : Nat) : Nat → State → Host.Outcome State Fault Refusal
  | 0, s => .next s
  | n + 1, s =>
    if s.phase ≠ .awaitCheck then .next s
    else
      match refPass waits s with
      | .next t => refLoop waits n t
      | .fault r => .fault r
      | .refused r => .refused r

/-- R90, the reference program, with bounds on its two loops. -/
def refCall (waits loops : Nat) (cmd : Byte) (payload : Bytes) (timeout : Time) (s : State) :
    Host.Outcome State Fault Refusal :=
  if s.phase ≠ .idle then .refused .notReentrant
  else
    let s := s.record (.hCall cmd payload timeout)
    if maxPayload < payload.length then
      .next ({ s with result := .invalidParameter, phase := .done } : State).handBack
    else
      let s := s.acceptCall cmd payload timeout
      if s.env.mute then .fault .transportNeverAnswers
      else
        match s.env.writeAnswer with
        | .fail e _ => .next (refReturn (.ioFailed e) (s.issueWrite (encodePacket cmd payload)))
        | .ok =>
          let s := { s.issueWrite (encodePacket cmd payload) with phase := .sendFlush }
          match s.env.flushAnswer with
          | .fail e => .next (refReturn (.ioFailed e) s.issueFlush)
          | .ok => refLoop waits loops { s.issueFlush.requestSent with phase := .awaitCheck }

end Sys2Proof.Machine
end

