-- ==== Sys2Proof/Machine/Codec.lean ====
section
/-!
DEFINITION. The codec and registry operations (40_codec.md). They are pure: of the state they touch only the record of
port transactions (R23, R74, P16), and they run in every phase.
-/

namespace Sys2Proof.Machine

/-- ENCODE (R70, port H.ENCODE). A payload over 253 bytes is a contract violation and has no result (D17). -/
def execEncode (cmd : Byte) (payload : Bytes) (s : State) : Host.Outcome State Fault Refusal :=
  if payloadFits payload then .next (s.record (.hEncode cmd payload (encodePacket cmd payload)))
  else .refused .encodeOversize

/-- DECODE (R71, port H.DECODE): total. -/
def execDecode (b : Bytes) (s : State) : Host.Outcome State Fault Refusal :=
  .next (s.record (.hDecode b (decodeBytes s.par.lenCheck b)))

/-- OPCODE_OF (R72): total on the commands that can be presented; a hand-built `Unknown` of a known opcode is refused
(U7). -/
def execOpcodeOf (command : Command) (s : State) : Host.Outcome State Fault Refusal :=
  match opcodeOfCommand s.par.known command with
  | some b => .next (s.record (.opcodeOf command b))
  | none => .refused .unknownOfKnown

/-- COMMAND_OF (R73): total on all 256 bytes. -/
def execCommandOf (b : Byte) (s : State) : Host.Outcome State Fault Refusal :=
  .next (s.record (.commandOf b (commandOfByte s.par.known b)))

end Sys2Proof.Machine
end

