-- ==== Sys2Proof/Machine/Transport.lean ====
section
/-!
DEFINITION. The transport operations (42_transport.md): the question and the answer at the port, without the engine's
reaction, which is that of XE.WRITE, XE.FLUSH and XE.READ. Only the engine issues them, in the order of R42, so each
has its phase (R120, U10).
-/

namespace Sys2Proof.Machine

/-- T.WRITE (R121). The rule's operand is always the request's whole frame, as XE.WRITE gives it; that other bytes are
written as they are, without a check against the frame, is the model's DESIGN CHOICE (log 12). -/
def execTWrite (bytes : Bytes) (s : State) : Host.Outcome State Fault Refusal :=
  if s.phase ≠ .sendWrite then .refused .transportNotOwned
  else if s.env.mute then .fault .transportNeverAnswers
  else .next (s.issueWrite bytes)

/-- T.FLUSH (R122). -/
def execTFlush (s : State) : Host.Outcome State Fault Refusal :=
  if s.phase ≠ .sendFlush then .refused .transportNotOwned
  else if s.env.mute then .fault .transportNeverAnswers
  else .next s.issueFlush

/-- T.READ (R123 to R127). The rule's operand is always `RD_MAX`; that with another `max` the
buffer offered holds the smaller of the two, so that no answer delivers more than `RD_MAX` bytes (R6), is the model's DESIGN CHOICE (log 12). An answer outside its
types is not modelled (D22). -/
def execTRead (max : Nat) (s : State) : Host.Outcome State Fault Refusal :=
  if s.phase ≠ .awaitRead then .refused .transportNotOwned
  else if s.env.mute then .fault .transportNeverAnswers
  else if answerInTypes (readLimit s.par max) (s.env.readAnswer (readLimit s.par max)) then .next (s.issueRead (readLimit s.par max))
  else .refused .answerOutsideTypes

end Sys2Proof.Machine
end

