-- ==== Sys2Proof/Machine/Wire.lean ====
section
/-!
DEFINITION. The meaning of a frame: what the engine does with one that stands whole at the front of the buffer
(30_encoding.md R50 to R57; 41_exchange_engine.md R101 to R103). Known and unknown opcodes are treated alike (R56).
-/

namespace Sys2Proof.Machine

/-- The frame of a packet at `buf[0]` (R71) is consumed; a match ends the call, a mismatch is discarded (R101 to R103). -/
def receiveFrame (pkt : Packet) (s : State) : Host.Outcome State Fault Refusal :=
  if s.phase ≠ .awaitDecode then .refused .notEnabled
  else if s.verdict = .complete pkt (pkt.payload.length + 5) then .next (s.takeFrame pkt (pkt.payload.length + 5))
  else .refused .frameNotInBuffer

/-- FRAME (R50, R57). -/
def execFrame (cmd : Byte) (payload : Bytes) (s : State) : Host.Outcome State Fault Refusal :=
  receiveFrame { cmd := cmd, payload := payload } s

/-- GET_ANGLES (R55, R57): the frame with opcode `0x20`. -/
def execGetAngles (payload : Bytes) (s : State) : Host.Outcome State Fault Refusal :=
  receiveFrame { cmd := getAnglesOpcode, payload := payload } s

end Sys2Proof.Machine
end

