-- ==== Sys2Proof/Machine/Dispatch.lean ====
section
/-!
DEFINITION. The dispatch: one arm per instruction, one meaning each.
-/

namespace Sys2Proof.Machine

def exec (i : Instr) (s : State) : Host.Outcome State Fault Refusal :=
  match i with
  | .frame cmd payload => Sys2Proof.Machine.execFrame cmd payload s
  | .getAngles payload => Sys2Proof.Machine.execGetAngles payload s
  | .encode cmd payload => Sys2Proof.Machine.execEncode cmd payload s
  | .decode b => Sys2Proof.Machine.execDecode b s
  | .opcodeOf command => Sys2Proof.Machine.execOpcodeOf command s
  | .commandOf b => Sys2Proof.Machine.execCommandOf b s
  | .sendAndAwait cmd payload timeout => Sys2Proof.Machine.execSendAndAwait cmd payload timeout s
  | .xeCall cmd payload timeout => Sys2Proof.Machine.execXeCall cmd payload timeout s
  | .xeWrite => Sys2Proof.Machine.execXeWrite s
  | .xeFlush => Sys2Proof.Machine.execXeFlush s
  | .xeEnter => Sys2Proof.Machine.execXeEnter s
  | .xeCheck => Sys2Proof.Machine.execXeCheck s
  | .xeRead => Sys2Proof.Machine.execXeRead s
  | .xeWait => Sys2Proof.Machine.execXeWait s
  | .xeDecode => Sys2Proof.Machine.execXeDecode s
  | .xeReturn => Sys2Proof.Machine.execXeReturn s
  | .tWrite bytes => Sys2Proof.Machine.execTWrite bytes s
  | .tFlush => Sys2Proof.Machine.execTFlush s
  | .tRead max => Sys2Proof.Machine.execTRead max s

end Sys2Proof.Machine
end

