-- ==== Sys2Proof/Machine/Fetch.lean ====
section
/-!
DEFINITION. Which instruction runs next, and where a word is placed to be the next one. The block has no program
counter (R21, R41): its control state is the phase, and what DECODE looks at is the front of the buffer (log 9).
-/

namespace Sys2Proof.Machine

/-- The instruction the engine's phase enables (R15, R106). In AwaitDecode a whole frame at the front of the buffer is
itself the instruction; anything else there is XE.DECODE's to drop or wait for. -/
def engineInstr (s : State) : Option Instr :=
  match s.phase with
  | .idle => none
  | .sendWrite => some .xeWrite
  | .sendFlush => some .xeFlush
  | .sent => some .xeEnter
  | .awaitCheck => some .xeCheck
  | .awaitRead => some .xeRead
  | .awaitWait => some .xeWait
  | .awaitDecode =>
    match decodeInstr s.par.lenCheck s.buf with
    | some i => some i
    | none => some .xeDecode
  | .done => some .xeReturn

/-- Whether the host's next operation is issued now: a pure operation in any phase (R23), a call in Idle (R91). -/
def hostReady (s : State) : Bool :=
  match s.program with
  | [] => false
  | op :: _ => hostOpAnyPhase op || s.phase == .idle

/-- The instruction that runs next: the host's when it is ready to issue one, else the engine's. None when the block
is Idle and the host has nothing to issue (R151). -/
def State.nextInstr (s : State) : Option Instr :=
  match s.program with
  | [] => engineInstr s
  | op :: _ => if hostReady s then some (hostInstr op) else engineInstr s

/-- The state that instruction runs in: a host operation that is issued leaves the host's program. -/
def State.afterFetch (s : State) : State :=
  if hostReady s then { s with program := s.program.tail } else s

/-- The state in which `bytes` have been received and DECODE is about to look at them (log 9). -/
def State.placeBytes (s : State) (bytes : Bytes) : State :=
  { s with
    phase := .awaitDecode, buf := bytes, rx := s.rx.take s.rxBase ++ bytes, rxSeen := s.rxBase + bytes.length,
    program := [] }

end Sys2Proof.Machine
end

