-- ==== Sys2Proof/Machine/Step.lean ====
section
/-!
DEFINITION. One step of the machine, and the placing of a word of opcode_table.json as the next instruction.
-/

namespace Sys2Proof.Machine

/-- One step: the next instruction runs; with none, the block stays Idle (R151). -/
def step (s : State) : Host.Outcome State Fault Refusal :=
  match s.nextInstr with
  | some i => exec i s.afterFetch
  | none => .next s

/-- The state whose next step runs the frame whose numbered bits are `w` (log 9). -/
def State.withFetchWord (s : State) (nbits w : Nat) : State := s.placeBytes (tableBytes nbits w)

end Sys2Proof.Machine
end

