-- ==== Sys2Proof/Safety.lean ====
section
/-!
DEFINITION. The terms claims are stated in: the function `scan` of R109, the transport operations of the current call
(R42), the invariants of R28, and the fairness under which every call ends (R181).
-/

namespace Sys2Proof.Machine

/-! ### The call as a function of the received stream (R109) -/

/-- What `scan` answers. -/
inductive ScanResult where
  | pending
  | found (payload : Bytes)
  deriving DecidableEq, Repr

/-- R109: `scan`, with a bound on its passes; each pass shortens the sequence, so the length and one more suffice. -/
def scanFor (lenCheck : LenCheck) (k : Byte) : Nat → Bytes → ScanResult
  | 0, _ => .pending
  | n + 1, b =>
    match decodeBytes lenCheck b with
    | .incomplete => .pending
    | .invalid _ => scanFor lenCheck k n (b.drop 1)
    | .complete pkt consumed =>
      if pkt.cmd = k then .found pkt.payload else scanFor lenCheck k n (b.drop consumed)

/-- R109: `scan(b)` for the request opcode `k`. -/
def scan (lenCheck : LenCheck) (k : Byte) (b : Bytes) : ScanResult := scanFor lenCheck k (b.length + 1) b

/-! ### The transport operations of the current call (R42) -/

/-- The three transport operations. -/
inductive TransportOp where
  | write
  | flush
  | read
  deriving DecidableEq, Repr

/-- The transport operation a transaction is, if it is one. -/
def transportOp : Transaction → Option TransportOp
  | .tWrite _ _ => some .write
  | .tFlush _ => some .flush
  | .tRead _ _ => some .read
  | .hCall _ _ _ => none
  | .hRet _ => none
  | .hEncode _ _ _ => none
  | .hDecode _ _ => none
  | .opcodeOf _ _ => none
  | .commandOf _ _ => none
  | .clk _ => none

/-- The transport operations issued since the last H.CALL, newest first. -/
def callOps : List Transaction → List TransportOp
  | [] => []
  | .hCall _ _ _ :: _ => []
  | t :: ts =>
    match transportOp t with
    | some op => op :: callOps ts
    | none => callOps ts

/-- R42: which operations a call has issued by the time it is in a phase: nothing, one write, one flush after it, then
reads only. Nothing is said of Idle and Done. -/
def opsOfPhase : Phase → List TransportOp → Prop
  | .idle, _ => True
  | .sendWrite, ops => ops = []
  | .sendFlush, ops => ops = [.write]
  | .sent, ops => ops = [.flush, .write]
  | .awaitCheck, ops => ∃ n, ops = List.replicate n .read ++ [.flush, .write]
  | .awaitRead, ops => ∃ n, ops = List.replicate n .read ++ [.flush, .write]
  | .awaitWait, ops => ∃ n, ops = List.replicate n .read ++ [.flush, .write]
  | .awaitDecode, ops => ∃ n, ops = List.replicate n .read ++ [.flush, .write]
  | .done, _ => True

/-- R15's last column: the micro-operation each phase enables; Idle waits for the host's XE.CALL. -/
def Phase.microOp : Phase → Option Instr
  | .idle => none
  | .sendWrite => some .xeWrite
  | .sendFlush => some .xeFlush
  | .sent => some .xeEnter
  | .awaitCheck => some .xeCheck
  | .awaitRead => some .xeRead
  | .awaitWait => some .xeWait
  | .awaitDecode => some .xeDecode
  | .done => some .xeReturn

/-! ### Invariants -/

/-- A call is in progress and has not ended: every phase but Idle and Done. -/
def Phase.inCall : Phase → Bool
  | .idle => false
  | .sendWrite => true
  | .sendFlush => true
  | .sent => true
  | .awaitCheck => true
  | .awaitRead => true
  | .awaitWait => true
  | .awaitDecode => true
  | .done => false

/-- The phases of R28 item 1, in which the buffer is empty. -/
def Phase.bufEmpty : Phase → Bool
  | .idle => true
  | .sendWrite => true
  | .sendFlush => true
  | .sent => true
  | .awaitCheck => false
  | .awaitRead => false
  | .awaitWait => false
  | .awaitDecode => false
  | .done => true

/-- The phases of R28 item 2, in which the buffer waits for more bytes. -/
def Phase.wantsBytes : Phase → Bool
  | .idle => false
  | .sendWrite => false
  | .sendFlush => false
  | .sent => false
  | .awaitCheck => true
  | .awaitRead => true
  | .awaitWait => true
  | .awaitDecode => false
  | .done => false

/-- The invariants of R28 (its items 1 to 6; the lower bound of item 3 as far as R103 and vector M22 leave it, log 19),
R21's account of the ghosts, R42's order and R110's lower bound. -/
structure State.Inv (s : State) : Prop where
  /-- R5, R6, R9: the parameters are in their ranges. -/
  params : s.par.wf
  /-- R28 item 1. -/
  empty : s.phase.bufEmpty = true → s.buf = []
  /-- R28 item 2. -/
  waiting : s.phase.wantsBytes = true → s.verdict = .incomplete ∧ s.buf.length ≤ 257
  /-- R28 item 3, first half: a buffer about to be decoded is empty only after bytes have been removed from its front,
  a whole frame of at least 5 (R103, M22). -/
  decoding : s.phase = .awaitDecode → 1 ≤ s.buf.length ∨ 5 ≤ s.rxBase
  /-- R28 item 3, R46: `len(buf) <= BUF_CAP`. -/
  bounded : s.buf.length ≤ 257 + s.par.rdMax
  /-- R28 item 4. -/
  request : s.phase.inCall = true → s.reqPayload.length ≤ 253
  /-- R28 item 5. -/
  response : ∀ p, s.phase = .done → s.result = .ok p → p.length ≤ 253
  /-- R28 item 6. -/
  rejected : s.phase = .done → s.result = .invalidParameter → callOps s.trace = []
  /-- R21: the buffer is the part of the received bytes not yet removed. -/
  ghosts : s.phase.inCall = true → s.rxSeen = s.rx.length ∧ s.rxBase ≤ s.rxSeen ∧ s.buf = s.rx.drop s.rxBase
  /-- R42: the order of the transport operations. -/
  order : opsOfPhase s.phase (callOps s.trace)
  /-- R110: a call that timed out had reached its deadline. -/
  timed : s.phase = .done → s.result = .timedOut → s.deadline ≤ s.env.now

/-- R109: while a call runs, `scan` has found nothing in the bytes already removed, so what it will find depends on the
buffer and on what is still to come; a call that returned a payload returned what `scan` found. -/
structure State.Scanned (s : State) : Prop where
  running : s.phase.inCall = true →
    ∀ x, scan s.par.lenCheck s.reqCmd (s.rx ++ x) = scan s.par.lenCheck s.reqCmd (s.buf ++ x)
  found : ∀ p, s.phase = .done → s.result = .ok p → scan s.par.lenCheck s.reqCmd s.rx = .found p

/-! ### Fairness (R181) -/

/-- R181: what a call needs in order to end, of the run of the engine's micro-operations from a state: every transport
operation answers (R175) and answers inside its types (R124), so that no micro-operation stops, and the clock is
unbounded, so that for every moment the run comes to one at or after it unless the call has returned (log 27). -/
structure State.Fair (s : State) : Prop where
  answers : ∀ n f, runCall n s ≠ .fault f
  typed : ∀ n r, runCall n s ≠ .refused r
  clock : ∀ moment : Time, ∃ n t, runCall n s = .next t ∧ (t.phase = .idle ∨ moment ≤ t.env.now)

end Sys2Proof.Machine
end

