-- ==== Sys2Proof/Certificates/Slice0/Obligations.lean ====
section
/-!
DEFINITION. The statements for the provers. A next state is written out field by field, so that each equation says what
changes and that nothing else does. The field `trace` is the record of the port transactions of R29, kept as log 13
says; the field `env` is R25's environment, its answers to come kept as log 4 says.
-/

open Sys2Proof Sys2Proof.Machine

/-! ### The codec and the registry -/

/-- R70: ENCODE builds the frame of the frame table for a payload of at most 253 bytes, 5 bytes longer than the payload,
its length byte counting the payload and 2, and changes nothing but the record of its port; a longer payload is refused
(D17). -/
def Obligations.EncodeBuildsTheFrame : Prop :=
  ∀ (s : State) (c : Byte) (p : Bytes),
    (p.length ≤ 253 →
      exec (.encode c p) s =
          .next { s with
            trace := .hEncode c p ([0xFE#8, 0xFE#8, BitVec.ofNat 8 (p.length + 2), c] ++ p ++ [0xFA#8]) :: s.trace } ∧
        (BitVec.ofNat 8 (p.length + 2)).toNat = p.length + 2 ∧
        ([0xFE#8, 0xFE#8, BitVec.ofNat 8 (p.length + 2), c] ++ p ++ [0xFA#8]).length = p.length + 5) ∧
    (253 < p.length → exec (.encode c p) s = .refused .encodeOversize)

/-- R71, the decision table: DECODE answers for every byte sequence, and changes nothing but the record of its port. -/
def Obligations.DecodeFollowsTheDecisionTable : Prop :=
  ∀ (s : State) (b : Bytes), s.par.lenCheck = .late →
    exec (.decode b) s =
      .next { s with
        trace := .hDecode b
          (if b.length < 2 then .incomplete
          else if b.take 2 ≠ [0xFE#8, 0xFE#8] then .invalid .badHeader
          else if b.length = 2 then .incomplete
          else if b.length < 3 + (b.getD 2 0#8).toNat then .incomplete
          else if b.getD (2 + (b.getD 2 0#8).toNat) 0#8 ≠ 0xFA#8 then .invalid .badFooter
          else if (b.getD 2 0#8).toNat < 2 then .invalid .lengthTooSmall
          else
            .complete { cmd := b.getD 3 0#8, payload := (b.drop 4).take ((b.getD 2 0#8).toNat - 2) }
              (3 + (b.getD 2 0#8).toNat)) :: s.trace }

/-- R71 corner case h, D6: the early length check differs from the late one only on a good header with a length field
below 2, where it answers `Invalid(LengthTooSmall)`, and the verdict class differs on one input only. -/
def Obligations.EarlyLengthCheckDiffersOnlyThere : Prop :=
  (∀ (s : State) (b : Bytes), s.par.lenCheck = .early →
    exec (.decode b) s = .next { s with trace := .hDecode b (decodeBytes .early b) :: s.trace }) ∧
  (∀ b : Bytes,
    (3 ≤ b.length ∧ b.take 2 = [0xFE#8, 0xFE#8] ∧ (b.getD 2 0#8).toNat < 2 →
      decodeBytes .early b = .invalid .lengthTooSmall) ∧
    (¬(3 ≤ b.length ∧ b.take 2 = [0xFE#8, 0xFE#8] ∧ (b.getD 2 0#8).toNat < 2) →
      decodeBytes .early b = decodeBytes .late b) ∧
    (verdictCode (decodeBytes .early b) = verdictCode (decodeBytes .late b) ↔ b ≠ [0xFE#8, 0xFE#8, 0x01#8]))

/-- R80: the characterisation of each verdict, with `LEN_CHECK = late`. -/
def Obligations.VerdictsAreCharacterised : Prop :=
  (∀ (b : Bytes) (k : Byte) (p : Bytes) (t : Nat),
    decodeBytes .late b = .complete { cmd := k, payload := p } t ↔
      5 ≤ b.length ∧ b.getD 0 0#8 = 0xFE#8 ∧ b.getD 1 0#8 = 0xFE#8 ∧ 2 ≤ (b.getD 2 0#8).toNat ∧
        t = 3 + (b.getD 2 0#8).toNat ∧ t ≤ b.length ∧ b.getD (t - 1) 0#8 = 0xFA#8 ∧ k = b.getD 3 0#8 ∧
        p = (b.take (t - 1)).drop 4) ∧
  (∀ (b : Bytes) (k : Byte) (p : Bytes) (t : Nat),
    decodeBytes .late b = .complete { cmd := k, payload := p } t ↔
      p.length ≤ 253 ∧ t = p.length + 5 ∧ ∃ x, b = encodePacket k p ++ x) ∧
  (∀ b : Bytes,
    decodeBytes .late b = .incomplete ↔
      b.length ≤ 1 ∨
        2 ≤ b.length ∧ b.getD 0 0#8 = 0xFE#8 ∧ b.getD 1 0#8 = 0xFE#8 ∧
          (b.length = 2 ∨ b.length < 3 + (b.getD 2 0#8).toNat)) ∧
  (∀ b : Bytes,
    (∃ r, decodeBytes .late b = .invalid r) ↔
      decodeBytes .late b ≠ .incomplete ∧ ∀ pkt t, decodeBytes .late b ≠ .complete pkt t)

/-- R59: the three illegal encodings and the reason each is given. -/
def Obligations.IllegalEncodingsAreThree : Prop :=
  ∀ b : Bytes,
    (decodeBytes .late b = .invalid .badHeader ↔
      2 ≤ b.length ∧ ¬(b.getD 0 0#8 = 0xFE#8 ∧ b.getD 1 0#8 = 0xFE#8)) ∧
    (decodeBytes .late b = .invalid .badFooter ↔
      b.getD 0 0#8 = 0xFE#8 ∧ b.getD 1 0#8 = 0xFE#8 ∧ 3 + (b.getD 2 0#8).toNat ≤ b.length ∧
        b.getD (2 + (b.getD 2 0#8).toNat) 0#8 ≠ 0xFA#8) ∧
    (decodeBytes .late b = .invalid .lengthTooSmall ↔
      b.getD 0 0#8 = 0xFE#8 ∧ b.getD 1 0#8 = 0xFE#8 ∧ b.getD 2 0#8 = 0x01#8 ∧ 4 ≤ b.length ∧
        b.getD 3 0#8 = 0xFA#8)

/-- R60: what becomes of the reserved length values 0 and 1, and that ENCODE never produces them. -/
def Obligations.ReservedLengthsAreRejected : Prop :=
  (∀ x, decodeBytes .late (0xFE#8 :: 0xFE#8 :: 0x00#8 :: x) = .invalid .badFooter) ∧
  decodeBytes .late [0xFE#8, 0xFE#8, 0x01#8] = .incomplete ∧
  (∀ y x, y ≠ 0xFA#8 → decodeBytes .late (0xFE#8 :: 0xFE#8 :: 0x01#8 :: y :: x) = .invalid .badFooter) ∧
  (∀ x, decodeBytes .late (0xFE#8 :: 0xFE#8 :: 0x01#8 :: 0xFA#8 :: x) = .invalid .lengthTooSmall) ∧
  (∀ c p, p.length ≤ 253 → 2 ≤ ((encodePacket c p).getD 2 0#8).toNat)

/-- R75: a verdict other than `Incomplete` stays when bytes are added. -/
def Obligations.VerdictsAreStable : Prop :=
  ∀ (lc : LenCheck) (b x : Bytes),
    decodeBytes lc b ≠ .incomplete → decodeBytes lc (b ++ x) = decodeBytes lc b

/-- R76: decoding an encoded packet gives it back, for every opcode (the spec marks the unknown opcodes as derived); hence
ENCODE is injective. -/
def Obligations.PacketRoundTrip : Prop :=
  (∀ (lc : LenCheck) (k : Byte) (p : Bytes), p.length ≤ 253 →
    decodeBytes lc (encodePacket k p) = .complete { cmd := k, payload := p } (p.length + 5)) ∧
  ∀ (k k' : Byte) (p p' : Bytes), p.length ≤ 253 → p'.length ≤ 253 →
    encodePacket k p = encodePacket k' p' → k = k' ∧ p = p'

/-- R77: a strict part from the front of a valid frame is `Incomplete`. -/
def Obligations.CutFramesAreIncomplete : Prop :=
  ∀ (lc : LenCheck) (k : Byte) (p : Bytes) (n : Nat), p.length ≤ 253 → n < (encodePacket k p).length →
    decodeBytes lc ((encodePacket k p).take n) = .incomplete

/-- R78: of two frames and garbage, first the one and then the other is decoded. -/
def Obligations.ConcatenatedFramesDecodeInTurn : Prop :=
  ∀ (lc : LenCheck) (a b : Packet) (garbage : Bytes), a.payload.length ≤ 253 → b.payload.length ≤ 253 →
    let frameA := encodePacket a.cmd a.payload
    let frameB := encodePacket b.cmd b.payload
    decodeBytes lc (frameA ++ frameB ++ garbage) = .complete a frameA.length ∧
      decodeBytes lc ((frameA ++ frameB ++ garbage).drop frameA.length) = .complete b frameB.length

/-- R79: a bad header, and a wrong byte where the footer should be. -/
def Obligations.BadHeaderAndBadFooterAreInvalid : Prop :=
  (∀ (lc : LenCheck) (x : Bytes), decodeBytes lc (0x00#8 :: 0x00#8 :: x) = .invalid .badHeader) ∧
  ∀ (lc : LenCheck) (c : Byte) (p : Bytes) (y : Byte), p.length ≤ 253 → y ≠ 0xFA#8 →
    decodeBytes lc ([0xFE#8, 0xFE#8, BitVec.ofNat 8 (p.length + 2), c] ++ p ++ [y]) = .invalid .badFooter

/-- Every well-formed instruction that has a bit pattern is read back from it, whatever follows. -/
def Obligations.InstrRoundTrip : Prop :=
  ∀ (lc : LenCheck) (i : Instr) (bs x : Bytes), i.wellFormed = true → encodeInstr i = some bs →
    decodeInstr lc bs = some i ∧ decodeInstrRest lc (bs ++ x) = some (i, x)

/-- Whatever bytes the decoder reads an instruction from are that instruction's encoding and what follows it; the
instruction is well formed. -/
def Obligations.DecodedInstrReencodes : Prop :=
  ∀ (lc : LenCheck) (b x : Bytes) (i : Instr), decodeInstrRest lc b = some (i, x) →
    i.wellFormed = true ∧ ∃ bs, encodeInstr i = some bs ∧ b = bs ++ x

/-- Words written out from the spec's encodings. -/
def Obligations.WrittenWordsDecode : Prop :=
  decodeInstr .late [0xFE#8, 0xFE#8, 0x02#8, 0x20#8, 0xFA#8] = some (.getAngles []) ∧
  decodeInstr .late [0xFE#8, 0xFE#8, 0x03#8, 0x21#8, 0x07#8, 0xFA#8] = some (.frame 0x21#8 [0x07#8]) ∧
  decodeInstr .late [0xFE#8, 0xFE#8, 0x05#8, 0x10#8, 0xFE#8, 0xFE#8, 0xFA#8, 0xFA#8] =
    some (.frame 0x10#8 [0xFE#8, 0xFE#8, 0xFA#8]) ∧
  decodeInstr .late [0xFE#8, 0xFE#8, 0x02#8, 0x20#8, 0xFB#8] = none

/-- R74, R23, R72, R73: a codec or registry operation adds one record of its port and changes nothing else, in every
phase; what it answers depends on its operands and the parameters alone; DECODE answers for every byte sequence and
ENCODE for every payload of at most 253 bytes. That the registry's operations too run in every phase and leave a record
is the model's choice (log 8, log 13), and so is that OPCODE_OF runs on every name (log 15). -/
def Obligations.CodecOperationsArePure : Prop :=
  (∀ (i : Instr) (s s' t : State),
    ((∃ c p, i = .encode c p) ∨ (∃ b, i = .decode b) ∨ (∃ c, i = .opcodeOf c) ∨ ∃ b, i = .commandOf b) →
    s'.par = s.par → exec i s = .next t →
    ∃ tr, t = { s with trace := tr :: s.trace } ∧ exec i s' = .next { s' with trace := tr :: s'.trace }) ∧
  (∀ (s : State) (b : Bytes), ∃ t, exec (.decode b) s = .next t) ∧
  (∀ (s : State) (c : Byte) (p : Bytes), p.length ≤ 253 → ∃ t, exec (.encode c p) s = .next t) ∧
  ∀ (s : State) (name : CommandName), ∃ t, exec (.opcodeOf (.known name)) s = .next t

/-- R73: COMMAND_OF answers the name the table has for the byte, and the byte itself as unknown when it has none; it is
inverse to OPCODE_OF. -/
def Obligations.CommandOfReadsTheTable : Prop :=
  ∀ (s : State) (b : Byte), s.par.wf →
    ∃ c, exec (.commandOf b) s = .next { s with trace := .commandOf b c :: s.trace } ∧
      (∀ name, c = .known name ↔ (name, b) ∈ s.par.known) ∧
      (c = .unknown b ↔ ∀ name, (name, b) ∉ s.par.known) ∧
      opcodeOfCommand s.par.known c = some b ∧
      ∀ name, (name, b) ∈ s.par.known → commandOfByte s.par.known b = .known name

/-- R72: OPCODE_OF answers the table's byte for a known command and the carried byte for an unknown one, and undoes
COMMAND_OF on every byte; a hand-built `Unknown` of a known opcode is refused (its corner case, U7). -/
def Obligations.OpcodeOfReadsTheTable : Prop :=
  ∀ (s : State), s.par.wf →
    (∀ name b, (name, b) ∈ s.par.known →
      exec (.opcodeOf (.known name)) s = .next { s with trace := .opcodeOf (.known name) b :: s.trace }) ∧
    (∀ b, (∀ name, (name, b) ∉ s.par.known) →
      exec (.opcodeOf (.unknown b)) s = .next { s with trace := .opcodeOf (.unknown b) b :: s.trace }) ∧
    (∀ name b, (name, b) ∈ s.par.known → exec (.opcodeOf (.unknown b)) s = .refused .unknownOfKnown) ∧
    (∀ b c, exec (.commandOf b) s = .next { s with trace := .commandOf b c :: s.trace } →
      exec (.opcodeOf c) s = .next { s with trace := .opcodeOf c b :: s.trace }) ∧
    exec (.opcodeOf (.known .getAngles)) s =
      .next { s with trace := .opcodeOf (.known .getAngles) 0x20#8 :: s.trace }

/-! ### The engine's micro-operations -/

/-- R91: a payload over 253 bytes ends the call with InvalidParameter and nothing else; no call is taken unless Idle. -/
def Obligations.CallRejectsLongPayloads : Prop :=
  ∀ (s : State) (c : Byte) (p : Bytes) (timeout : Time),
    (s.phase = .idle → 253 < p.length →
      exec (.xeCall c p timeout) s =
        .next { s with
          result := .invalidParameter, phase := .done, trace := .hCall c p timeout :: s.trace }) ∧
    (s.phase ≠ .idle → exec (.xeCall c p timeout) s = .refused .notReentrant)

/-- R92: an accepted call latches the operands, sets the deadline from one look at the clock, and starts the send. -/
def Obligations.CallLatchesTheRequest : Prop :=
  ∀ (s : State) (c : Byte) (p : Bytes) (timeout : Time),
    s.phase = .idle → p.length ≤ 253 → s.par.deadlineOrigin = .beforeWrite →
    exec (.xeCall c p timeout) s =
      .next { s with
        reqCmd := c, reqPayload := p, deadline := s.env.nextNow + timeout, buf := [], rxBase := 0, rxSeen := 0,
        rx := [], phase := .sendWrite, env := s.env.look,
        trace := .clk s.env.nextNow :: .hCall c p timeout :: s.trace }

/-- D3, U19; the model's choice of where the timeout waits is log 2: under `DEADLINE_ORIGIN = after_flush` the call looks at no clock, and the flush that succeeds
sets the deadline to its own moment plus the timeout. -/
def Obligations.DeadlineMayStartAfterTheFlush : Prop :=
  (∀ (s : State) (c : Byte) (p : Bytes) (timeout : Time),
    s.phase = .idle → p.length ≤ 253 → s.par.deadlineOrigin = .afterFlush →
    exec (.xeCall c p timeout) s =
      .next { s with
        reqCmd := c, reqPayload := p, deadline := timeout, buf := [], rxBase := 0, rxSeen := 0, rx := [],
        phase := .sendWrite, trace := .hCall c p timeout :: s.trace }) ∧
  ∀ s : State,
    s.phase = .sendFlush → s.env.mute = false → s.env.flushAnswer = .ok → s.par.deadlineOrigin = .afterFlush →
    exec .xeFlush s =
      .next { s with
        deadline := s.env.afterFlush.nextNow + s.deadline, phase := .sent, env := s.env.afterFlush.look,
        trace := .clk s.env.afterFlush.nextNow :: .tFlush .ok :: s.trace }

/-- R93: the whole frame goes out in one T.WRITE; a failure ends the call with the transport's cause. -/
def Obligations.WriteSendsTheFrameOnce : Prop :=
  ∀ s : State,
    s.phase = .sendWrite → s.reqPayload.length ≤ 253 → s.env.mute = false →
    (s.env.writeAnswer = .ok →
      exec .xeWrite s =
        .next { s with
          phase := .sendFlush, env := s.env.afterWrite (encodePacket s.reqCmd s.reqPayload),
          trace := .tWrite (encodePacket s.reqCmd s.reqPayload) .ok :: s.trace }) ∧
    ∀ e n, s.env.writeAnswer = .fail e n →
      exec .xeWrite s =
        .next { s with
          result := .ioFailed e, buf := [], phase := .done,
          env := s.env.afterWrite (encodePacket s.reqCmd s.reqPayload),
          trace := .tWrite (encodePacket s.reqCmd s.reqPayload) (.fail e n) :: s.trace }

/-- R94: the flush; a failure ends the call with the transport's cause. -/
def Obligations.FlushFollowsTheWrite : Prop :=
  ∀ s : State,
    s.phase = .sendFlush → s.env.mute = false →
    (s.env.flushAnswer = .ok → s.par.deadlineOrigin = .beforeWrite →
      exec .xeFlush s =
        .next { s with phase := .sent, env := s.env.afterFlush, trace := .tFlush .ok :: s.trace }) ∧
    ∀ e, s.env.flushAnswer = .fail e →
      exec .xeFlush s =
        .next { s with
          result := .ioFailed e, buf := [], phase := .done, env := s.env.afterFlush,
          trace := .tFlush (.fail e) :: s.trace }

/-- R95: the read loop is entered. -/
def Obligations.EnterStartsTheReadLoop : Prop :=
  ∀ s : State, s.phase = .sent → exec .xeEnter s = .next { s with phase := .awaitCheck }

/-- R96: at or after the deadline the call times out and the buffer is discarded; before it the engine reads. -/
def Obligations.CheckTestsTheDeadline : Prop :=
  ∀ s : State, s.phase = .awaitCheck →
    (s.deadline ≤ s.env.nextNow →
      exec .xeCheck s =
        .next { s with
          result := .timedOut, buf := [], phase := .done, env := s.env.look,
          trace := .clk s.env.nextNow :: s.trace }) ∧
    (s.env.nextNow < s.deadline →
      exec .xeCheck s =
        .next { s with phase := .awaitRead, env := s.env.look, trace := .clk s.env.nextNow :: s.trace })

/-- R97: the engine's reaction to each answer of T.READ, with the spec's `EOS_POLICY`. -/
def Obligations.ReadReactsToTheAnswer : Prop :=
  ∀ s : State, s.phase = .awaitRead → s.env.mute = false →
    (∀ bs, s.env.readAnswer s.par.rdMax = .data bs → 1 ≤ bs.length → bs.length ≤ s.par.rdMax →
      exec .xeRead s =
        .next { s with
          buf := s.buf ++ bs, rxSeen := s.rxSeen + bs.length, rx := s.rx ++ bs, phase := .awaitDecode,
          env := s.env.afterRead, trace := .tRead s.par.rdMax (.data bs) :: s.trace }) ∧
    (∀ a, a = ReadAnswer.noData ∨ (a = .eos ∧ s.par.eosPolicy = .asNoData) → s.env.readAnswer s.par.rdMax = a →
      exec .xeRead s =
        .next { s with
          waitUntil := s.env.afterRead.nextNow + s.par.retryInterval, phase := .awaitWait,
          env := s.env.afterRead.look,
          trace := .clk s.env.afterRead.nextNow :: .tRead s.par.rdMax a :: s.trace }) ∧
    ∀ e, s.env.readAnswer s.par.rdMax = .fatal e →
      exec .xeRead s =
        .next { s with
          result := .ioFailed e, buf := [], phase := .done, env := s.env.afterRead,
          trace := .tRead s.par.rdMax (.fatal e) :: s.trace }

/-- R126's alternative, D9: under `EOS_POLICY = as_io_failure` a clean end-of-stream ends the call IoFailed. The cause
is a free value, the model's choice (log 2). -/
def Obligations.EosMayEndTheCall : Prop :=
  ∀ s : State, s.phase = .awaitRead → s.env.mute = false → s.par.eosPolicy = .asIoFailure →
    s.env.readAnswer s.par.rdMax = .eos →
    ∃ e, exec .xeRead s =
      .next { s with
        result := .ioFailed e, buf := [], phase := .done,
        env := { s.env.afterRead with draws := s.env.afterRead.draws + 1 },
        trace := .tRead s.par.rdMax .eos :: s.trace }

/-- R98: the wait ends at the first look at or after `wait_until`; until then the step is held. That a held XE.WAIT
answers a next state in which only the clock has moved is the model's reading (log 6). -/
def Obligations.WaitIsHeldUntilItsEnd : Prop :=
  ∀ s : State, s.phase = .awaitWait →
    (s.waitUntil ≤ s.env.nextNow →
      exec .xeWait s =
        .next { s with phase := .awaitCheck, env := s.env.look, trace := .clk s.env.nextNow :: s.trace }) ∧
    (s.env.nextNow < s.waitUntil →
      exec .xeWait s = .next { s with env := s.env.look, trace := .clk s.env.nextNow :: s.trace })

/-- R100: an `Invalid` verdict drops exactly one byte, whatever the reason, and decodes again. -/
def Obligations.InvalidDropsOneByte : Prop :=
  ∀ (s : State) (r : Reason), s.phase = .awaitDecode → decodeBytes s.par.lenCheck s.buf = .invalid r →
    exec .xeDecode s = .next { s with buf := s.buf.tail, rxBase := s.rxBase + 1 } ∧
      s.buf.tail.length + 1 = s.buf.length

/-- R104: an `Incomplete` verdict leaves the buffer and goes back to the deadline test. -/
def Obligations.IncompleteReadsOn : Prop :=
  ∀ s : State, s.phase = .awaitDecode → decodeBytes s.par.lenCheck s.buf = .incomplete →
    exec .xeDecode s = .next { s with phase := .awaitCheck }

/-- R102: a complete frame with the request's opcode ends the call with its payload; what follows it is discarded. -/
def Obligations.MatchEndsTheCall : Prop :=
  ∀ (s : State) (p x : Bytes), s.phase = .awaitDecode → p.length ≤ 253 →
    s.buf = encodePacket s.reqCmd p ++ x →
    exec .xeDecode s =
      .next { s with
        result := .ok p, buf := [], rxBase := s.rxBase + (p.length + 5), phase := .done }

/-- R103: a complete frame with another opcode is removed; what follows it is decoded next, and the deadline stays. -/
def Obligations.MismatchIsRemoved : Prop :=
  ∀ (s : State) (c : Byte) (p x : Bytes), s.phase = .awaitDecode → p.length ≤ 253 → c ≠ s.reqCmd →
    s.buf = encodePacket c p ++ x →
    exec .xeDecode s = .next { s with buf := x, rxBase := s.rxBase + (p.length + 5), phase := .awaitDecode }

/-- R107: the host receives the result and the block is Idle again. -/
def Obligations.ReturnHandsOverTheResult : Prop :=
  ∀ s : State, s.phase = .done →
    exec .xeReturn s = .next { s with phase := .idle, trace := .hRet s.result :: s.trace }

/-- R106, R15: of the micro-operations, every one but the phase's is turned away. That turning away is a refusal is the
model's reading (log 18), and so is that XE.WAIT is not turned away in AwaitWait before `wait_until`, where R106 has no
step enabled until the clock moves (log 6). -/
def Obligations.OneMicroOperationIsEnabled : Prop :=
  ∀ (s : State) (i : Instr),
    i ∈ [Instr.xeWrite, .xeFlush, .xeEnter, .xeCheck, .xeRead, .xeWait, .xeDecode, .xeReturn] →
    (exec i s = .refused .notEnabled ↔ s.phase.microOp ≠ some i)

/-- R170: while a call is in progress or its result is not taken, no call is accepted. -/
def Obligations.NoSecondCall : Prop :=
  ∀ (s : State) (c : Byte) (p : Bytes) (timeout : Time), s.phase ≠ .idle →
    exec (.xeCall c p timeout) s = .refused .notReentrant ∧
      exec (.sendAndAwait c p timeout) s = .refused .notReentrant

/-! ### Frames -/

/-- FRAME and GET_ANGLES, read as received frames (the model's choice, log 10): the frame at the front of the buffer is consumed; a match ends the call, a mismatch is
discarded (R101 to R103). -/
def Obligations.FramesAreReceived : Prop :=
  ∀ (s : State) (c : Byte) (p x : Bytes) (i : Instr), i = .frame c p ∨ (c = 0x20#8 ∧ i = .getAngles p) →
    s.phase = .awaitDecode → p.length ≤ 253 → s.buf = encodePacket c p ++ x →
    (c = s.reqCmd →
      exec i s =
        .next { s with
          result := .ok p, buf := [], rxBase := s.rxBase + (p.length + 5), phase := .done }) ∧
    (c ≠ s.reqCmd →
      exec i s = .next { s with buf := x, rxBase := s.rxBase + (p.length + 5), phase := .awaitDecode })

/-- Log 10, the model's choice: a frame is XE.DECODE's `Complete` branch, for known and unknown opcodes alike; a frame that does not stand at the
front of the buffer has no step. -/
def Obligations.FrameAgreesWithDecode : Prop :=
  ∀ (s : State) (c : Byte) (p : Bytes), s.phase = .awaitDecode →
    ((∃ n, decodeBytes s.par.lenCheck s.buf = .complete { cmd := c, payload := p } n) →
      exec (.frame c p) s = exec .xeDecode s ∧ (c = 0x20#8 → exec (.getAngles p) s = exec .xeDecode s)) ∧
    ((∀ n, decodeBytes s.par.lenCheck s.buf ≠ .complete { cmd := c, payload := p } n) →
      exec (.frame c p) s = .refused .frameNotInBuffer ∧
        (c = 0x20#8 → exec (.getAngles p) s = .refused .frameNotInBuffer))

/-! ### The transport -/

/-- R121: T.WRITE. On Ok the transport has accepted all the bytes, in order; on a failure some part from the front, whose
length comes with the answer (log 16). That the clock stands still is the model's (log 5), and so are the phase that
stays and the bytes that are not the request's frame (log 12). -/
def Obligations.TransportWriteAcceptsBytes : Prop :=
  ∀ (s : State) (bs : Bytes), s.phase = .sendWrite → s.env.mute = false →
    exec (.tWrite bs) s =
        .next { s with env := s.env.afterWrite bs, trace := .tWrite bs s.env.writeAnswer :: s.trace } ∧
      (s.env.writeAnswer = .ok → (s.env.afterWrite bs).tx = s.env.tx ++ bs) ∧
      (∀ e n, s.env.writeAnswer = .fail e n → (s.env.afterWrite bs).tx = s.env.tx ++ bs.take n) ∧
      (s.env.afterWrite bs).now = s.env.now ∧ (s.env.afterWrite bs).reads = s.env.reads ∧
      (s.env.afterWrite bs).flushes = s.env.flushes

/-- R122: T.FLUSH takes the transport's answer. That it touches neither stream nor the clock is the model's (log 4). -/
def Obligations.TransportFlushTouchesNoStream : Prop :=
  ∀ s : State, s.phase = .sendFlush → s.env.mute = false →
    exec .tFlush s = .next { s with env := s.env.afterFlush, trace := .tFlush s.env.flushAnswer :: s.trace } ∧
      s.env.afterFlush.tx = s.env.tx ∧ s.env.afterFlush.reads = s.env.reads ∧ s.env.afterFlush.now = s.env.now ∧
      s.env.afterFlush.writes = s.env.writes

/-- R123, R38, R128: T.READ delivers the transport's answer, which is then gone; the constant end of a script stays; a
free draw (log 4) is inside the types. The buffer is the engine's affair. That a size other than `RD_MAX` offers a
buffer of the smaller of the two is the model's choice (log 12). -/
def Obligations.TransportReadIsDestructive : Prop :=
  ∀ (s : State) (max limit : Nat), s.phase = .awaitRead → s.env.mute = false → limit = min max s.par.rdMax →
    (answerInTypes limit (s.env.readAnswer limit) = true →
      exec (.tRead max) s =
        .next { s with env := s.env.afterRead, trace := .tRead limit (s.env.readAnswer limit) :: s.trace }) ∧
    (∀ a as, s.env.reads = a :: as →
      s.env.readAnswer limit = a ∧ s.env.afterRead = { s.env with reads := as }) ∧
    (∀ a, s.env.reads = [] → s.env.readsThen = some a →
      s.env.readAnswer limit = a ∧ s.env.afterRead = s.env) ∧
    (s.env.reads = [] → s.env.readsThen = none → 1 ≤ limit →
      answerInTypes limit (s.env.readAnswer limit) = true ∧
        s.env.afterRead = { s.env with draws := s.env.draws + 1 })

/-- R124, D22: a `Data` answer with no bytes, or with more than were asked for, is not modelled. U16: an operation the
transport never answers leaves the machine stuck; the flag that says so is the model's (log 17). -/
def Obligations.BrokenTransportsStopTheMachine : Prop :=
  (∀ (s : State) (max : Nat) (bs : Bytes), s.phase = .awaitRead → s.env.mute = false →
    bs.length = 0 ∨ min max s.par.rdMax < bs.length →
    (s.env.readAnswer (min max s.par.rdMax) = .data bs → exec (.tRead max) s = .refused .answerOutsideTypes) ∧
    (max = s.par.rdMax → s.env.readAnswer max = .data bs → exec .xeRead s = .refused .answerOutsideTypes)) ∧
  ∀ s : State, s.env.mute = true →
    (s.phase = .sendWrite → s.reqPayload.length ≤ 253 → exec .xeWrite s = .fault .transportNeverAnswers) ∧
    (s.phase = .sendFlush → exec .xeFlush s = .fault .transportNeverAnswers) ∧
    (s.phase = .awaitRead → exec .xeRead s = .fault .transportNeverAnswers) ∧
    (s.phase = .sendWrite → ∀ bs, exec (.tWrite bs) s = .fault .transportNeverAnswers) ∧
    (s.phase = .sendFlush → exec .tFlush s = .fault .transportNeverAnswers) ∧
    (s.phase = .awaitRead → ∀ max, exec (.tRead max) s = .fault .transportNeverAnswers)

/-- R44, U10: a transport operation outside the phase in which the engine issues it is a second agent's, and refused. That
a lone T.* instruction belongs to the phase in which the engine would issue it is the model's choice (log 12). -/
def Obligations.TransportBelongsToTheEngine : Prop :=
  ∀ s : State,
    (s.phase ≠ .sendWrite → ∀ bs, exec (.tWrite bs) s = .refused .transportNotOwned) ∧
    (s.phase ≠ .sendFlush → exec .tFlush s = .refused .transportNotOwned) ∧
    (s.phase ≠ .awaitRead → ∀ max, exec (.tRead max) s = .refused .transportNotOwned)

/-! ### The whole call -/

/-- R134, R91: SEND_AND_AWAIT with a payload over 253 bytes returns InvalidParameter with no transport operation and no
look at the clock. -/
def Obligations.SendRejectsLongPayloads : Prop :=
  ∀ (s : State) (c : Byte) (p : Bytes) (timeout : Time), s.phase = .idle → 253 < p.length →
    exec (.sendAndAwait c p timeout) s =
      .next { s with
        result := .invalidParameter, trace := .hRet .invalidParameter :: .hCall c p timeout :: s.trace }

/-- R90, R102: when the write and the flush succeed and the first read, issued before the deadline, delivers a frame
with the request's opcode, the call returns its payload; what was read behind the frame is lost (R47). That one step
runs the whole call is the model's choice (log 11). -/
def Obligations.SendReturnsTheResponse : Prop :=
  ∀ (s : State) (c : Byte) (p q x : Bytes) (timeout a b : Time) (as : List Time) (ws : List WriteAnswer)
    (fs : List FlushAnswer) (rs : List ReadAnswer),
    s.phase = .idle → p.length ≤ 253 → q.length ≤ 253 → s.par.deadlineOrigin = .beforeWrite →
    s.env.mute = false → s.env.writes = .ok :: ws → s.env.flushes = .ok :: fs →
    s.env.reads = .data (encodePacket c q ++ x) :: rs → (encodePacket c q ++ x).length ≤ s.par.rdMax →
    s.env.advances = a :: b :: as → b < timeout →
    exec (.sendAndAwait c p timeout) s =
      .next { s with
        phase := .idle, reqCmd := c, reqPayload := p, deadline := s.env.now + a + timeout, buf := [],
        result := .ok q, rxBase := q.length + 5, rxSeen := (encodePacket c q ++ x).length,
        rx := encodePacket c q ++ x,
        env := { s.env with
          now := s.env.now + a + b, advances := as, writes := ws, flushes := fs, reads := rs,
          tx := s.env.tx ++ encodePacket c p },
        trace :=
          .hRet (.ok q) :: .tRead s.par.rdMax (.data (encodePacket c q ++ x)) :: .clk (s.env.now + a + b) ::
            .tFlush .ok :: .tWrite (encodePacket c p) .ok :: .clk (s.env.now + a) :: .hCall c p timeout ::
            s.trace }

/-- R96, R141: when the first look of the read loop is at or after the deadline, the call returns TimedOut without a
single read, whatever waits in the transport; `timeout = 0` always does so. -/
def Obligations.SendTimesOutBeforeReading : Prop :=
  ∀ (s : State) (c : Byte) (p : Bytes) (timeout a b : Time) (as : List Time) (ws : List WriteAnswer)
    (fs : List FlushAnswer),
    s.phase = .idle → p.length ≤ 253 → s.par.deadlineOrigin = .beforeWrite →
    s.env.mute = false → s.env.writes = .ok :: ws → s.env.flushes = .ok :: fs →
    s.env.advances = a :: b :: as → timeout ≤ b →
    exec (.sendAndAwait c p timeout) s =
      .next { s with
        phase := .idle, reqCmd := c, reqPayload := p, deadline := s.env.now + a + timeout, buf := [],
        result := .timedOut, rxBase := 0, rxSeen := 0, rx := [],
        env := { s.env with
          now := s.env.now + a + b, advances := as, writes := ws, flushes := fs,
          tx := s.env.tx ++ encodePacket c p },
        trace :=
          .hRet .timedOut :: .clk (s.env.now + a + b) :: .tFlush .ok :: .tWrite (encodePacket c p) .ok ::
            .clk (s.env.now + a) :: .hCall c p timeout :: s.trace }

/-- R131, R141: a failing write or flush ends the call IoFailed, even with a timeout of 0, and nothing is read. -/
def Obligations.SendFailsWithTheTransport : Prop :=
  ∀ (s : State) (c : Byte) (p : Bytes) (timeout a : Time) (as : List Time) (e : IoCause) (n : Nat)
    (ws : List WriteAnswer) (fs : List FlushAnswer),
    s.phase = .idle → p.length ≤ 253 → s.par.deadlineOrigin = .beforeWrite → s.env.mute = false →
    s.env.advances = a :: as →
    (s.env.writes = .fail e n :: ws →
      exec (.sendAndAwait c p timeout) s =
        .next { s with
          phase := .idle, reqCmd := c, reqPayload := p, deadline := s.env.now + a + timeout, buf := [],
          result := .ioFailed e, rxBase := 0, rxSeen := 0, rx := [],
          env := { s.env with
            now := s.env.now + a, advances := as, writes := ws, tx := s.env.tx ++ (encodePacket c p).take n },
          trace :=
            .hRet (.ioFailed e) :: .tWrite (encodePacket c p) (.fail e n) :: .clk (s.env.now + a) ::
              .hCall c p timeout :: s.trace }) ∧
    (s.env.writes = .ok :: ws → s.env.flushes = .fail e :: fs →
      exec (.sendAndAwait c p timeout) s =
        .next { s with
          phase := .idle, reqCmd := c, reqPayload := p, deadline := s.env.now + a + timeout, buf := [],
          result := .ioFailed e, rxBase := 0, rxSeen := 0, rx := [],
          env := { s.env with
            now := s.env.now + a, advances := as, writes := ws, flushes := fs,
            tx := s.env.tx ++ encodePacket c p },
          trace :=
            .hRet (.ioFailed e) :: .tFlush (.fail e) :: .tWrite (encodePacket c p) .ok :: .clk (s.env.now + a) ::
              .hCall c p timeout :: s.trace })

/-- R90: the reference program and the micro-operations are the same call. Wherever the bounded program stops, some
number of micro-operations after XE.CALL gets to the same answer; and whatever the micro-operations come to, be it the
return to Idle or a stop, the program comes to as well under some bounds. The bounds on its two loops are the model's
(log 11). -/
def Obligations.ReferenceProgramIsTheMicroOperations : Prop :=
  ∀ (s : State) (c : Byte) (p : Bytes) (timeout : Time), s.phase = .idle →
    ∃ u, exec (.xeCall c p timeout) s = .next u ∧
      (∀ waits loops, ∃ n, refCall waits loops c p timeout s = runCall n u) ∧
      ∀ n, (∀ t, runCall n u = .next t → t.phase = .idle) →
        ∃ waits loops, refCall waits loops c p timeout s = runCall n u

/-- R105: the decode loop ends, after at most as many passes as the buffer has bytes (one for an empty buffer), with no
answer of the environment and no look at the clock. -/
def Obligations.DecodeLoopEnds : Prop :=
  ∀ s : State, s.phase = .awaitDecode →
    ∃ (n : Nat) (t : State), n ≤ max 1 s.buf.length ∧ runCall n s = .next t ∧
      (t.phase = .awaitCheck ∨ t.phase = .done) ∧ t.env = s.env ∧ t.trace = s.trace

/-- R181: under its fairness assumption, and with a transport that answers, every call ends: the run of the engine's
micro-operations from any state comes to Idle. The assumption itself is log 27. -/
def Obligations.EveryFairCallEnds : Prop :=
  ∀ s : State, s.Fair → ∃ n t, runCall n s = .next t ∧ t.phase = .idle

/-- R112: two leading bytes that cannot start a frame are dropped one at a time, and the frame behind them is found. -/
def Obligations.ResyncRecoversTheFrame : Prop :=
  ∀ (s : State) (k : Byte) (p : Bytes), s.phase = .awaitDecode → p.length ≤ 253 →
    s.buf = [0x01#8, 0x02#8] ++ encodePacket k p →
    exec .xeDecode s =
        .next { s with buf := 0x02#8 :: encodePacket k p, rxBase := s.rxBase + 1 } ∧
      exec .xeDecode { s with buf := 0x02#8 :: encodePacket k p, rxBase := s.rxBase + 1 } =
        .next { s with buf := encodePacket k p, rxBase := s.rxBase + 2 } ∧
      decodeBytes s.par.lenCheck (encodePacket k p) = .complete { cmd := k, payload := p } (encodePacket k p).length

/-- R109: what `scan` has found stays found, and a frame for another command is skipped on the way to the match (R111),
as is a byte that starts no frame. -/
def Obligations.ScanIsMonotoneAndSkipsMismatches : Prop :=
  (∀ (lc : LenCheck) (k : Byte) (b x p : Bytes), scan lc k b = .found p → scan lc k (b ++ x) = .found p) ∧
  (∀ (lc : LenCheck) (k c : Byte) (p q x : Bytes), p.length ≤ 253 → q.length ≤ 253 → c ≠ k →
    scan lc k (encodePacket c p ++ encodePacket k q ++ x) = .found q) ∧
  ∀ (lc : LenCheck) (k : Byte) (b : Bytes) (r : Reason), decodeBytes lc b = .invalid r →
    scan lc k b = scan lc k b.tail

/-! ### The whole machine -/

/-- R27: the state after reset, in the fields the rule gives a value. A reset of a given state between calls leaves the
environment (R161), and the parameters the block was built with (R5), what they were; during a call it is no step
(R162). The operation State.resetBlock and its refusals, that in Done included, where R15 has the call ended and the
result not yet taken, are the model's choice (log 26). -/
def Obligations.ResetIsBetweenCalls : Prop :=
  (State.reset.phase = .idle ∧ State.reset.buf = [] ∧ State.reset.rxBase = 0 ∧ State.reset.rxSeen = 0) ∧
  ∀ s : State,
    (s.phase = .idle →
      ∃ t, s.resetBlock = .next t ∧ t.phase = .idle ∧ t.buf = [] ∧ t.rxBase = 0 ∧ t.rxSeen = 0 ∧
        t.env = s.env ∧ t.par = s.par) ∧
    (s.phase ≠ .idle → s.resetBlock = .refused .resetInCall)

/-- The invariants hold after reset. -/
def Obligations.ResetMeetsTheInvariants : Prop := State.reset.Inv ∧ State.reset.Scanned

/-- R28, R21, R42, R110: every step keeps the invariants. -/
def Obligations.StepKeepsTheInvariants : Prop :=
  ∀ s t : State, s.Inv → step s = .next t → t.Inv

/-- R109: every step keeps the account of the received stream: a call returns what `scan` finds in the bytes delivered,
however they were cut into answers. -/
def Obligations.StepKeepsTheScan : Prop :=
  ∀ s t : State, s.Scanned → step s = .next t → t.Scanned

/-- R15, R106: a step runs the instruction that is next: the phase's micro-operation, or an operation the host issues,
which leaves its program first; Idle with nothing to issue stays as it is (R151). That a whole frame at the front of the
buffer is itself the instruction in AwaitDecode, where R15 has XE.DECODE, is the model's choice (log 9, log 10), and so
is the order of host and engine (log 7, log 8). -/
def Obligations.StepRunsTheNextInstruction : Prop :=
  (∀ (s : State) (i : Instr), hostReady s = false → s.phase = .awaitDecode →
    decodeInstr s.par.lenCheck s.buf = some i → step s = exec i s) ∧
  (∀ (s : State) (i : Instr), hostReady s = false → s.phase.microOp = some i →
    (s.phase = .awaitDecode → decodeInstr s.par.lenCheck s.buf = none) → step s = exec i s) ∧
  (∀ (s : State) (op : HostOp) (ops : List HostOp), s.program = op :: ops →
    hostOpAnyPhase op = true ∨ s.phase = .idle → step s = exec (hostInstr op) { s with program := ops }) ∧
  ∀ s : State, s.phase = .idle → s.program = [] → step s = .next s

/-- A word of the opcode table is placed where the next step runs it, the model's choice of place (log 9). -/
def Obligations.PlacedWordIsTheNextInstruction : Prop :=
  ∀ (s : State) (nbits w : Nat) (i : Instr), decodeTableWord nbits w = some i → s.par.lenCheck = .late →
    step (s.withFetchWord nbits w) = exec i (s.withFetchWord nbits w)

/-- R7, R5: no step moves the clock back or changes a parameter (log 1 keeps the parameters in the state). -/
def Obligations.ClockAndParametersAreTheEnvironments : Prop :=
  ∀ s t : State, step s = .next t → s.env.now ≤ t.env.now ∧ t.par = s.par

/-- R37: the buffer changes by appending at the end, dropping from the front, or clearing, and in no other way. -/
def Obligations.BufferChangesThreeWays : Prop :=
  ∀ (i : Instr) (s t : State), (∀ c p k, i ≠ .sendAndAwait c p k) → exec i s = .next t →
    t.buf = s.buf ∨ t.buf = [] ∨ t.buf = s.buf.drop 1 ∨ (∃ n, 5 ≤ n ∧ n ≤ 258 ∧ t.buf = s.buf.drop n) ∨
      ∃ bs, 1 ≤ bs.length ∧ bs.length ≤ s.par.rdMax ∧ t.buf = s.buf ++ bs

/-- R42, R45, R171: only XE.READ lets bytes into the buffer, so nothing of what is written reaches it; only reading
takes what the transport holds for the block; the account of the received bytes is cleared by XE.CALL alone; only
writing adds to the TX stream. -/
def Obligations.StreamsAreTouchedByTheirOperationsOnly : Prop :=
  ∀ (i : Instr) (s t : State), (∀ c p k, i ≠ .sendAndAwait c p k) → exec i s = .next t →
    (i ≠ .xeRead → t.buf <:+ s.buf) ∧
    (i ≠ .xeRead → (∀ max, i ≠ .tRead max) → t.env.reads = s.env.reads) ∧
    t.env.readsThen = s.env.readsThen ∧
    (i ≠ .xeRead → (∀ c p k, i ≠ .xeCall c p k) → t.rx = s.rx) ∧
    ((∃ c p k, i = .xeCall c p k) → t.rx = s.rx ∨ t.rx = []) ∧
    (i ≠ .xeWrite → (∀ bs, i ≠ .tWrite bs) → t.env.tx = s.env.tx)

/-- R24, U23: nothing survives from one call to the next: whatever the latches hold when a call begins, it does the
same transactions, leaves the same buffer and the same environment, and so answers the host alike. -/
def Obligations.StaleLatchesNeverMatter : Prop :=
  ∀ (s t : State) (c c' : Byte) (p p' : Bytes) (timeout d w : Time) (o : CallOutcome),
    exec (.sendAndAwait c p timeout) s = .next t →
    ∃ t', exec (.sendAndAwait c p timeout)
        { s with reqCmd := c', reqPayload := p', deadline := d, waitUntil := w, result := o } = .next t' ∧
      t'.phase = t.phase ∧ t'.buf = t.buf ∧ t'.env = t.env ∧ t'.trace = t.trace
end

