-- ==== Sys2Proof/Laws/Codec.lean ====
section
/-!
SUPPORT. What each verdict of DECODE says of the bytes (R71, R37, R46), and how `scan` unfolds (R109).
-/

namespace Sys2Proof

/-- R71, last row: what a `Complete` verdict rests on. -/
theorem decodeBytes_complete {lc : LenCheck} {b : Bytes} {pkt : Packet} {n : Nat}
    (h : decodeBytes lc b = .complete pkt n) :
    byteAt b 0 = headerByte ∧ byteAt b 1 = headerByte ∧ 2 ≤ (byteAt b 2).toNat ∧ n = 3 + (byteAt b 2).toNat ∧
      n ≤ b.length ∧ byteAt b (n - 1) = footerByte ∧ pkt.cmd = byteAt b 3 ∧
      pkt.payload = (b.drop 4).take ((byteAt b 2).toNat - 2) := by
  unfold decodeBytes at h
  split_ifs at h
  simp only [Verdict.complete.injEq] at h
  obtain ⟨rfl, rfl⟩ := h
  simp_all
  omega

/-- R37, R53: a complete frame has 5 to 258 bytes, all present, and a payload 5 shorter. -/
theorem decodeBytes_complete_length {lc : LenCheck} {b : Bytes} {pkt : Packet} {n : Nat}
    (h : decodeBytes lc b = .complete pkt n) :
    5 ≤ n ∧ n ≤ 258 ∧ n ≤ b.length ∧ pkt.payload.length + 5 = n := by
  obtain ⟨-, -, hL, hn, hlen, -, -, hp⟩ := decodeBytes_complete h
  have := (byteAt b 2).isLt
  refine ⟨by omega, by omega, hlen, ?_⟩
  rw [hp, List.length_take, List.length_drop]
  omega

/-- R100: `Invalid` needs two bytes. -/
theorem decodeBytes_invalid_length {lc : LenCheck} {b : Bytes} {r : Reason}
    (h : decodeBytes lc b = .invalid r) : 2 ≤ b.length := by
  unfold decodeBytes at h
  split_ifs at h <;> omega

/-- R46: the bound on a buffer that wants more bytes. -/
theorem decodeBytes_incomplete_length {lc : LenCheck} {b : Bytes} (h : decodeBytes lc b = .incomplete) :
    b.length ≤ 257 := by
  have := (byteAt b 2).isLt
  unfold decodeBytes at h
  split_ifs at h <;> omega

/-- R71 step 1: nothing is said of an empty buffer. -/
@[simp] theorem decodeBytes_nil (lc : LenCheck) : decodeBytes lc [] = .incomplete := rfl

namespace Machine

/-- Passes beyond the length of the sequence change nothing. -/
theorem scanFor_enough (lc : LenCheck) (k : Byte) (n : Nat) :
    ∀ m b, b.length < n → b.length < m → scanFor lc k n b = scanFor lc k m b := by
  induction n with
  | zero => intro m b hn; omega
  | succ n ih =>
    intro m b hn hm
    cases m with
    | zero => omega
    | succ m =>
      simp only [scanFor]
      cases hd : decodeBytes lc b with
      | incomplete => rfl
      | invalid r =>
        have h2 := decodeBytes_invalid_length hd
        have hl : (b.drop 1).length = b.length - 1 := List.length_drop
        exact ih m (b.drop 1) (by omega) (by omega)
      | complete pkt c =>
        have hc := decodeBytes_complete_length hd
        have hl : (b.drop c).length = b.length - c := List.length_drop
        simp only
        split
        · rfl
        · exact ih m (b.drop c) (by omega) (by omega)

/-- R109, first branch of `scan`. -/
theorem scan_incomplete {lc : LenCheck} {k : Byte} {b : Bytes} (h : decodeBytes lc b = .incomplete) :
    scan lc k b = .pending := by
  simp [scan, scanFor, h]

/-- R109, second branch of `scan`. -/
theorem scan_invalid {lc : LenCheck} {k : Byte} {b : Bytes} {r : Reason} (h : decodeBytes lc b = .invalid r) :
    scan lc k b = scan lc k (b.drop 1) := by
  have h2 := decodeBytes_invalid_length h
  have hl : (b.drop 1).length = b.length - 1 := List.length_drop
  have : scan lc k b = scanFor lc k b.length (b.drop 1) := by simp [scan, scanFor, h]
  rw [this]
  exact scanFor_enough lc k _ _ _ (by omega) (by omega)

/-- R109, third branch of `scan`, the match. -/
theorem scan_match {lc : LenCheck} {k : Byte} {b : Bytes} {pkt : Packet} {n : Nat}
    (h : decodeBytes lc b = .complete pkt n) (hk : pkt.cmd = k) : scan lc k b = .found pkt.payload := by
  simp [scan, scanFor, h, hk]

/-- R109, third branch of `scan`, the mismatch. -/
theorem scan_mismatch {lc : LenCheck} {k : Byte} {b : Bytes} {pkt : Packet} {n : Nat}
    (h : decodeBytes lc b = .complete pkt n) (hk : pkt.cmd ≠ k) : scan lc k b = scan lc k (b.drop n) := by
  have hc := decodeBytes_complete_length h
  have hl : (b.drop n).length = b.length - n := List.length_drop
  have : scan lc k b = scanFor lc k b.length (b.drop n) := by simp [scan, scanFor, h, hk]
  rw [this]
  exact scanFor_enough lc k _ _ _ (by omega) (by omega)

end Machine

end Sys2Proof
end

