-- ==== Sys2Proof/Laws/State.lean ====
section
/-!
SUPPORT. The small lemmas of the state's operations: one per field per operation, true by unfolding.
-/

namespace Sys2Proof.Machine

/-! ### `State.record` -/

@[simp] theorem State.record_phase (s : State) (t : Transaction) :
    (s.record t).phase = s.phase := rfl

@[simp] theorem State.record_reqCmd (s : State) (t : Transaction) :
    (s.record t).reqCmd = s.reqCmd := rfl

@[simp] theorem State.record_reqPayload (s : State) (t : Transaction) :
    (s.record t).reqPayload = s.reqPayload := rfl

@[simp] theorem State.record_deadline (s : State) (t : Transaction) :
    (s.record t).deadline = s.deadline := rfl

@[simp] theorem State.record_waitUntil (s : State) (t : Transaction) :
    (s.record t).waitUntil = s.waitUntil := rfl

@[simp] theorem State.record_buf (s : State) (t : Transaction) :
    (s.record t).buf = s.buf := rfl

@[simp] theorem State.record_result (s : State) (t : Transaction) :
    (s.record t).result = s.result := rfl

@[simp] theorem State.record_rxBase (s : State) (t : Transaction) :
    (s.record t).rxBase = s.rxBase := rfl

@[simp] theorem State.record_rxSeen (s : State) (t : Transaction) :
    (s.record t).rxSeen = s.rxSeen := rfl

@[simp] theorem State.record_rx (s : State) (t : Transaction) :
    (s.record t).rx = s.rx := rfl

@[simp] theorem State.record_par (s : State) (t : Transaction) :
    (s.record t).par = s.par := rfl

@[simp] theorem State.record_program (s : State) (t : Transaction) :
    (s.record t).program = s.program := rfl

@[simp] theorem State.record_env (s : State) (t : Transaction) :
    (s.record t).env = s.env := rfl

@[simp] theorem State.record_trace (s : State) (t : Transaction) :
    (s.record t).trace = t :: s.trace := rfl

/-! ### `State.look` -/

@[simp] theorem State.look_phase (s : State) :
    s.look.phase = s.phase := rfl

@[simp] theorem State.look_reqCmd (s : State) :
    s.look.reqCmd = s.reqCmd := rfl

@[simp] theorem State.look_reqPayload (s : State) :
    s.look.reqPayload = s.reqPayload := rfl

@[simp] theorem State.look_deadline (s : State) :
    s.look.deadline = s.deadline := rfl

@[simp] theorem State.look_waitUntil (s : State) :
    s.look.waitUntil = s.waitUntil := rfl

@[simp] theorem State.look_buf (s : State) :
    s.look.buf = s.buf := rfl

@[simp] theorem State.look_result (s : State) :
    s.look.result = s.result := rfl

@[simp] theorem State.look_rxBase (s : State) :
    s.look.rxBase = s.rxBase := rfl

@[simp] theorem State.look_rxSeen (s : State) :
    s.look.rxSeen = s.rxSeen := rfl

@[simp] theorem State.look_rx (s : State) :
    s.look.rx = s.rx := rfl

@[simp] theorem State.look_par (s : State) :
    s.look.par = s.par := rfl

@[simp] theorem State.look_program (s : State) :
    s.look.program = s.program := rfl

@[simp] theorem State.look_env (s : State) :
    s.look.env = s.env.look := rfl

@[simp] theorem State.look_trace (s : State) :
    s.look.trace = .clk s.env.nextNow :: s.trace := rfl

/-! ### `State.issueWrite` -/

@[simp] theorem State.issueWrite_phase (s : State) (bs : Bytes) :
    (s.issueWrite bs).phase = s.phase := rfl

@[simp] theorem State.issueWrite_reqCmd (s : State) (bs : Bytes) :
    (s.issueWrite bs).reqCmd = s.reqCmd := rfl

@[simp] theorem State.issueWrite_reqPayload (s : State) (bs : Bytes) :
    (s.issueWrite bs).reqPayload = s.reqPayload := rfl

@[simp] theorem State.issueWrite_deadline (s : State) (bs : Bytes) :
    (s.issueWrite bs).deadline = s.deadline := rfl

@[simp] theorem State.issueWrite_waitUntil (s : State) (bs : Bytes) :
    (s.issueWrite bs).waitUntil = s.waitUntil := rfl

@[simp] theorem State.issueWrite_buf (s : State) (bs : Bytes) :
    (s.issueWrite bs).buf = s.buf := rfl

@[simp] theorem State.issueWrite_result (s : State) (bs : Bytes) :
    (s.issueWrite bs).result = s.result := rfl

@[simp] theorem State.issueWrite_rxBase (s : State) (bs : Bytes) :
    (s.issueWrite bs).rxBase = s.rxBase := rfl

@[simp] theorem State.issueWrite_rxSeen (s : State) (bs : Bytes) :
    (s.issueWrite bs).rxSeen = s.rxSeen := rfl

@[simp] theorem State.issueWrite_rx (s : State) (bs : Bytes) :
    (s.issueWrite bs).rx = s.rx := rfl

@[simp] theorem State.issueWrite_par (s : State) (bs : Bytes) :
    (s.issueWrite bs).par = s.par := rfl

@[simp] theorem State.issueWrite_program (s : State) (bs : Bytes) :
    (s.issueWrite bs).program = s.program := rfl

@[simp] theorem State.issueWrite_env (s : State) (bs : Bytes) :
    (s.issueWrite bs).env = s.env.afterWrite bs := rfl

@[simp] theorem State.issueWrite_trace (s : State) (bs : Bytes) :
    (s.issueWrite bs).trace = .tWrite bs s.env.writeAnswer :: s.trace := rfl

/-! ### `State.issueFlush` -/

@[simp] theorem State.issueFlush_phase (s : State) :
    s.issueFlush.phase = s.phase := rfl

@[simp] theorem State.issueFlush_reqCmd (s : State) :
    s.issueFlush.reqCmd = s.reqCmd := rfl

@[simp] theorem State.issueFlush_reqPayload (s : State) :
    s.issueFlush.reqPayload = s.reqPayload := rfl

@[simp] theorem State.issueFlush_deadline (s : State) :
    s.issueFlush.deadline = s.deadline := rfl

@[simp] theorem State.issueFlush_waitUntil (s : State) :
    s.issueFlush.waitUntil = s.waitUntil := rfl

@[simp] theorem State.issueFlush_buf (s : State) :
    s.issueFlush.buf = s.buf := rfl

@[simp] theorem State.issueFlush_result (s : State) :
    s.issueFlush.result = s.result := rfl

@[simp] theorem State.issueFlush_rxBase (s : State) :
    s.issueFlush.rxBase = s.rxBase := rfl

@[simp] theorem State.issueFlush_rxSeen (s : State) :
    s.issueFlush.rxSeen = s.rxSeen := rfl

@[simp] theorem State.issueFlush_rx (s : State) :
    s.issueFlush.rx = s.rx := rfl

@[simp] theorem State.issueFlush_par (s : State) :
    s.issueFlush.par = s.par := rfl

@[simp] theorem State.issueFlush_program (s : State) :
    s.issueFlush.program = s.program := rfl

@[simp] theorem State.issueFlush_env (s : State) :
    s.issueFlush.env = s.env.afterFlush := rfl

@[simp] theorem State.issueFlush_trace (s : State) :
    s.issueFlush.trace = .tFlush s.env.flushAnswer :: s.trace := rfl

/-! ### `State.issueRead` -/

@[simp] theorem State.issueRead_phase (s : State) (max : Nat) :
    (s.issueRead max).phase = s.phase := rfl

@[simp] theorem State.issueRead_reqCmd (s : State) (max : Nat) :
    (s.issueRead max).reqCmd = s.reqCmd := rfl

@[simp] theorem State.issueRead_reqPayload (s : State) (max : Nat) :
    (s.issueRead max).reqPayload = s.reqPayload := rfl

@[simp] theorem State.issueRead_deadline (s : State) (max : Nat) :
    (s.issueRead max).deadline = s.deadline := rfl

@[simp] theorem State.issueRead_waitUntil (s : State) (max : Nat) :
    (s.issueRead max).waitUntil = s.waitUntil := rfl

@[simp] theorem State.issueRead_buf (s : State) (max : Nat) :
    (s.issueRead max).buf = s.buf := rfl

@[simp] theorem State.issueRead_result (s : State) (max : Nat) :
    (s.issueRead max).result = s.result := rfl

@[simp] theorem State.issueRead_rxBase (s : State) (max : Nat) :
    (s.issueRead max).rxBase = s.rxBase := rfl

@[simp] theorem State.issueRead_rxSeen (s : State) (max : Nat) :
    (s.issueRead max).rxSeen = s.rxSeen := rfl

@[simp] theorem State.issueRead_rx (s : State) (max : Nat) :
    (s.issueRead max).rx = s.rx := rfl

@[simp] theorem State.issueRead_par (s : State) (max : Nat) :
    (s.issueRead max).par = s.par := rfl

@[simp] theorem State.issueRead_program (s : State) (max : Nat) :
    (s.issueRead max).program = s.program := rfl

@[simp] theorem State.issueRead_env (s : State) (max : Nat) :
    (s.issueRead max).env = s.env.afterRead := rfl

@[simp] theorem State.issueRead_trace (s : State) (max : Nat) :
    (s.issueRead max).trace = .tRead max (s.env.readAnswer max) :: s.trace := rfl

/-! ### `State.bufAppend` -/

@[simp] theorem State.bufAppend_phase (s : State) (bs : Bytes) :
    (s.bufAppend bs).phase = s.phase := rfl

@[simp] theorem State.bufAppend_reqCmd (s : State) (bs : Bytes) :
    (s.bufAppend bs).reqCmd = s.reqCmd := rfl

@[simp] theorem State.bufAppend_reqPayload (s : State) (bs : Bytes) :
    (s.bufAppend bs).reqPayload = s.reqPayload := rfl

@[simp] theorem State.bufAppend_deadline (s : State) (bs : Bytes) :
    (s.bufAppend bs).deadline = s.deadline := rfl

@[simp] theorem State.bufAppend_waitUntil (s : State) (bs : Bytes) :
    (s.bufAppend bs).waitUntil = s.waitUntil := rfl

@[simp] theorem State.bufAppend_buf (s : State) (bs : Bytes) :
    (s.bufAppend bs).buf = s.buf ++ bs := rfl

@[simp] theorem State.bufAppend_result (s : State) (bs : Bytes) :
    (s.bufAppend bs).result = s.result := rfl

@[simp] theorem State.bufAppend_rxBase (s : State) (bs : Bytes) :
    (s.bufAppend bs).rxBase = s.rxBase := rfl

@[simp] theorem State.bufAppend_rxSeen (s : State) (bs : Bytes) :
    (s.bufAppend bs).rxSeen = s.rxSeen + bs.length := rfl

@[simp] theorem State.bufAppend_rx (s : State) (bs : Bytes) :
    (s.bufAppend bs).rx = s.rx ++ bs := rfl

@[simp] theorem State.bufAppend_par (s : State) (bs : Bytes) :
    (s.bufAppend bs).par = s.par := rfl

@[simp] theorem State.bufAppend_program (s : State) (bs : Bytes) :
    (s.bufAppend bs).program = s.program := rfl

@[simp] theorem State.bufAppend_env (s : State) (bs : Bytes) :
    (s.bufAppend bs).env = s.env := rfl

@[simp] theorem State.bufAppend_trace (s : State) (bs : Bytes) :
    (s.bufAppend bs).trace = s.trace := rfl

/-! ### `State.bufDrop` -/

@[simp] theorem State.bufDrop_phase (s : State) (n : Nat) :
    (s.bufDrop n).phase = s.phase := rfl

@[simp] theorem State.bufDrop_reqCmd (s : State) (n : Nat) :
    (s.bufDrop n).reqCmd = s.reqCmd := rfl

@[simp] theorem State.bufDrop_reqPayload (s : State) (n : Nat) :
    (s.bufDrop n).reqPayload = s.reqPayload := rfl

@[simp] theorem State.bufDrop_deadline (s : State) (n : Nat) :
    (s.bufDrop n).deadline = s.deadline := rfl

@[simp] theorem State.bufDrop_waitUntil (s : State) (n : Nat) :
    (s.bufDrop n).waitUntil = s.waitUntil := rfl

@[simp] theorem State.bufDrop_buf (s : State) (n : Nat) :
    (s.bufDrop n).buf = s.buf.drop n := rfl

@[simp] theorem State.bufDrop_result (s : State) (n : Nat) :
    (s.bufDrop n).result = s.result := rfl

@[simp] theorem State.bufDrop_rxBase (s : State) (n : Nat) :
    (s.bufDrop n).rxBase = s.rxBase + n := rfl

@[simp] theorem State.bufDrop_rxSeen (s : State) (n : Nat) :
    (s.bufDrop n).rxSeen = s.rxSeen := rfl

@[simp] theorem State.bufDrop_rx (s : State) (n : Nat) :
    (s.bufDrop n).rx = s.rx := rfl

@[simp] theorem State.bufDrop_par (s : State) (n : Nat) :
    (s.bufDrop n).par = s.par := rfl

@[simp] theorem State.bufDrop_program (s : State) (n : Nat) :
    (s.bufDrop n).program = s.program := rfl

@[simp] theorem State.bufDrop_env (s : State) (n : Nat) :
    (s.bufDrop n).env = s.env := rfl

@[simp] theorem State.bufDrop_trace (s : State) (n : Nat) :
    (s.bufDrop n).trace = s.trace := rfl

/-! ### `State.bufClear` -/

@[simp] theorem State.bufClear_phase (s : State) :
    s.bufClear.phase = s.phase := rfl

@[simp] theorem State.bufClear_reqCmd (s : State) :
    s.bufClear.reqCmd = s.reqCmd := rfl

@[simp] theorem State.bufClear_reqPayload (s : State) :
    s.bufClear.reqPayload = s.reqPayload := rfl

@[simp] theorem State.bufClear_deadline (s : State) :
    s.bufClear.deadline = s.deadline := rfl

@[simp] theorem State.bufClear_waitUntil (s : State) :
    s.bufClear.waitUntil = s.waitUntil := rfl

@[simp] theorem State.bufClear_buf (s : State) :
    s.bufClear.buf = [] := rfl

@[simp] theorem State.bufClear_result (s : State) :
    s.bufClear.result = s.result := rfl

@[simp] theorem State.bufClear_rxBase (s : State) :
    s.bufClear.rxBase = s.rxBase := rfl

@[simp] theorem State.bufClear_rxSeen (s : State) :
    s.bufClear.rxSeen = s.rxSeen := rfl

@[simp] theorem State.bufClear_rx (s : State) :
    s.bufClear.rx = s.rx := rfl

@[simp] theorem State.bufClear_par (s : State) :
    s.bufClear.par = s.par := rfl

@[simp] theorem State.bufClear_program (s : State) :
    s.bufClear.program = s.program := rfl

@[simp] theorem State.bufClear_env (s : State) :
    s.bufClear.env = s.env := rfl

@[simp] theorem State.bufClear_trace (s : State) :
    s.bufClear.trace = s.trace := rfl

/-! ### `State.latch` -/

@[simp] theorem State.latch_phase (s : State) (cmd : Byte) (payload : Bytes) (deadline : Time) :
    (s.latch cmd payload deadline).phase = .sendWrite := rfl

@[simp] theorem State.latch_reqCmd (s : State) (cmd : Byte) (payload : Bytes) (deadline : Time) :
    (s.latch cmd payload deadline).reqCmd = cmd := rfl

@[simp] theorem State.latch_reqPayload (s : State) (cmd : Byte) (payload : Bytes) (deadline : Time) :
    (s.latch cmd payload deadline).reqPayload = payload := rfl

@[simp] theorem State.latch_deadline (s : State) (cmd : Byte) (payload : Bytes) (deadline : Time) :
    (s.latch cmd payload deadline).deadline = deadline := rfl

@[simp] theorem State.latch_waitUntil (s : State) (cmd : Byte) (payload : Bytes) (deadline : Time) :
    (s.latch cmd payload deadline).waitUntil = s.waitUntil := rfl

@[simp] theorem State.latch_buf (s : State) (cmd : Byte) (payload : Bytes) (deadline : Time) :
    (s.latch cmd payload deadline).buf = [] := rfl

@[simp] theorem State.latch_result (s : State) (cmd : Byte) (payload : Bytes) (deadline : Time) :
    (s.latch cmd payload deadline).result = s.result := rfl

@[simp] theorem State.latch_rxBase (s : State) (cmd : Byte) (payload : Bytes) (deadline : Time) :
    (s.latch cmd payload deadline).rxBase = 0 := rfl

@[simp] theorem State.latch_rxSeen (s : State) (cmd : Byte) (payload : Bytes) (deadline : Time) :
    (s.latch cmd payload deadline).rxSeen = 0 := rfl

@[simp] theorem State.latch_rx (s : State) (cmd : Byte) (payload : Bytes) (deadline : Time) :
    (s.latch cmd payload deadline).rx = [] := rfl

@[simp] theorem State.latch_par (s : State) (cmd : Byte) (payload : Bytes) (deadline : Time) :
    (s.latch cmd payload deadline).par = s.par := rfl

@[simp] theorem State.latch_program (s : State) (cmd : Byte) (payload : Bytes) (deadline : Time) :
    (s.latch cmd payload deadline).program = s.program := rfl

@[simp] theorem State.latch_env (s : State) (cmd : Byte) (payload : Bytes) (deadline : Time) :
    (s.latch cmd payload deadline).env = s.env := rfl

@[simp] theorem State.latch_trace (s : State) (cmd : Byte) (payload : Bytes) (deadline : Time) :
    (s.latch cmd payload deadline).trace = s.trace := rfl

/-! ### `State.armWait` -/

@[simp] theorem State.armWait_phase (s : State) :
    s.armWait.phase = .awaitWait := rfl

@[simp] theorem State.armWait_reqCmd (s : State) :
    s.armWait.reqCmd = s.reqCmd := rfl

@[simp] theorem State.armWait_reqPayload (s : State) :
    s.armWait.reqPayload = s.reqPayload := rfl

@[simp] theorem State.armWait_deadline (s : State) :
    s.armWait.deadline = s.deadline := rfl

@[simp] theorem State.armWait_waitUntil (s : State) :
    s.armWait.waitUntil = s.env.nextNow + s.par.retryInterval := rfl

@[simp] theorem State.armWait_buf (s : State) :
    s.armWait.buf = s.buf := rfl

@[simp] theorem State.armWait_result (s : State) :
    s.armWait.result = s.result := rfl

@[simp] theorem State.armWait_rxBase (s : State) :
    s.armWait.rxBase = s.rxBase := rfl

@[simp] theorem State.armWait_rxSeen (s : State) :
    s.armWait.rxSeen = s.rxSeen := rfl

@[simp] theorem State.armWait_rx (s : State) :
    s.armWait.rx = s.rx := rfl

@[simp] theorem State.armWait_par (s : State) :
    s.armWait.par = s.par := rfl

@[simp] theorem State.armWait_program (s : State) :
    s.armWait.program = s.program := rfl

@[simp] theorem State.armWait_env (s : State) :
    s.armWait.env = s.env.look := rfl

@[simp] theorem State.armWait_trace (s : State) :
    s.armWait.trace = .clk s.env.nextNow :: s.trace := rfl

/-! ### `State.finish` -/

@[simp] theorem State.finish_phase (s : State) (o : CallOutcome) :
    (s.finish o).phase = .done := rfl

@[simp] theorem State.finish_reqCmd (s : State) (o : CallOutcome) :
    (s.finish o).reqCmd = s.reqCmd := rfl

@[simp] theorem State.finish_reqPayload (s : State) (o : CallOutcome) :
    (s.finish o).reqPayload = s.reqPayload := rfl

@[simp] theorem State.finish_deadline (s : State) (o : CallOutcome) :
    (s.finish o).deadline = s.deadline := rfl

@[simp] theorem State.finish_waitUntil (s : State) (o : CallOutcome) :
    (s.finish o).waitUntil = s.waitUntil := rfl

@[simp] theorem State.finish_buf (s : State) (o : CallOutcome) :
    (s.finish o).buf = [] := rfl

@[simp] theorem State.finish_result (s : State) (o : CallOutcome) :
    (s.finish o).result = o := rfl

@[simp] theorem State.finish_rxBase (s : State) (o : CallOutcome) :
    (s.finish o).rxBase = s.rxBase := rfl

@[simp] theorem State.finish_rxSeen (s : State) (o : CallOutcome) :
    (s.finish o).rxSeen = s.rxSeen := rfl

@[simp] theorem State.finish_rx (s : State) (o : CallOutcome) :
    (s.finish o).rx = s.rx := rfl

@[simp] theorem State.finish_par (s : State) (o : CallOutcome) :
    (s.finish o).par = s.par := rfl

@[simp] theorem State.finish_program (s : State) (o : CallOutcome) :
    (s.finish o).program = s.program := rfl

@[simp] theorem State.finish_env (s : State) (o : CallOutcome) :
    (s.finish o).env = s.env := rfl

@[simp] theorem State.finish_trace (s : State) (o : CallOutcome) :
    (s.finish o).trace = s.trace := rfl

/-! ### `State.handBack` -/

@[simp] theorem State.handBack_phase (s : State) :
    s.handBack.phase = .idle := rfl

@[simp] theorem State.handBack_reqCmd (s : State) :
    s.handBack.reqCmd = s.reqCmd := rfl

@[simp] theorem State.handBack_reqPayload (s : State) :
    s.handBack.reqPayload = s.reqPayload := rfl

@[simp] theorem State.handBack_deadline (s : State) :
    s.handBack.deadline = s.deadline := rfl

@[simp] theorem State.handBack_waitUntil (s : State) :
    s.handBack.waitUntil = s.waitUntil := rfl

@[simp] theorem State.handBack_buf (s : State) :
    s.handBack.buf = s.buf := rfl

@[simp] theorem State.handBack_result (s : State) :
    s.handBack.result = s.result := rfl

@[simp] theorem State.handBack_rxBase (s : State) :
    s.handBack.rxBase = s.rxBase := rfl

@[simp] theorem State.handBack_rxSeen (s : State) :
    s.handBack.rxSeen = s.rxSeen := rfl

@[simp] theorem State.handBack_rx (s : State) :
    s.handBack.rx = s.rx := rfl

@[simp] theorem State.handBack_par (s : State) :
    s.handBack.par = s.par := rfl

@[simp] theorem State.handBack_program (s : State) :
    s.handBack.program = s.program := rfl

@[simp] theorem State.handBack_env (s : State) :
    s.handBack.env = s.env := rfl

@[simp] theorem State.handBack_trace (s : State) :
    s.handBack.trace = .hRet s.result :: s.trace := rfl

end Sys2Proof.Machine
end

