-- ==== Sys2Proof/Laws/Env.lean ====
section
/-!
SUPPORT. What asking the environment does to it: a look at the clock moves the clock, a transport operation takes its
answer, and nothing else changes (R7, R121 to R123).
-/

namespace Sys2Proof.Machine

/-! ### `Env.look` -/

@[simp] theorem Env.look_writes (e : Env) : e.look.writes = e.writes := by
  cases h : e.advances <;> simp [Env.look, h]

@[simp] theorem Env.look_flushes (e : Env) : e.look.flushes = e.flushes := by
  cases h : e.advances <;> simp [Env.look, h]

@[simp] theorem Env.look_reads (e : Env) : e.look.reads = e.reads := by
  cases h : e.advances <;> simp [Env.look, h]

@[simp] theorem Env.look_readsThen (e : Env) : e.look.readsThen = e.readsThen := by
  cases h : e.advances <;> simp [Env.look, h]

@[simp] theorem Env.look_mute (e : Env) : e.look.mute = e.mute := by
  cases h : e.advances <;> simp [Env.look, h]

@[simp] theorem Env.look_tx (e : Env) : e.look.tx = e.tx := by
  cases h : e.advances <;> simp [Env.look, h]

@[simp] theorem Env.look_now (e : Env) : e.look.now = e.nextNow := by
  cases h : e.advances <;> simp [Env.look, Env.nextNow, h]

@[simp] theorem Env.look_advances (e : Env) : e.look.advances = e.advances.tail := by
  cases h : e.advances <;> simp [Env.look, h]

/-! ### `Env.afterWrite` -/

@[simp] theorem Env.afterWrite_now (e : Env) (bs : Bytes) : (e.afterWrite bs).now = e.now := by
  cases h : e.writes <;> simp [Env.afterWrite, h]

@[simp] theorem Env.afterWrite_advances (e : Env) (bs : Bytes) : (e.afterWrite bs).advances = e.advances := by
  cases h : e.writes <;> simp [Env.afterWrite, h]

@[simp] theorem Env.afterWrite_flushes (e : Env) (bs : Bytes) : (e.afterWrite bs).flushes = e.flushes := by
  cases h : e.writes <;> simp [Env.afterWrite, h]

@[simp] theorem Env.afterWrite_reads (e : Env) (bs : Bytes) : (e.afterWrite bs).reads = e.reads := by
  cases h : e.writes <;> simp [Env.afterWrite, h]

@[simp] theorem Env.afterWrite_readsThen (e : Env) (bs : Bytes) : (e.afterWrite bs).readsThen = e.readsThen := by
  cases h : e.writes <;> simp [Env.afterWrite, h]

@[simp] theorem Env.afterWrite_mute (e : Env) (bs : Bytes) : (e.afterWrite bs).mute = e.mute := by
  cases h : e.writes <;> simp [Env.afterWrite, h]

@[simp] theorem Env.afterWrite_tx (e : Env) (bs : Bytes) : (e.afterWrite bs).tx = e.tx ++ acceptedBytes bs e.writeAnswer := by
  cases h : e.writes <;> simp [Env.afterWrite, Env.writeAnswer, h]

@[simp] theorem Env.afterWrite_writes (e : Env) (bs : Bytes) : (e.afterWrite bs).writes = e.writes.tail := by
  cases h : e.writes <;> simp [Env.afterWrite, h]

/-! ### `Env.afterFlush` -/

@[simp] theorem Env.afterFlush_now (e : Env) : e.afterFlush.now = e.now := by
  cases h : e.flushes <;> simp [Env.afterFlush, h]

@[simp] theorem Env.afterFlush_advances (e : Env) : e.afterFlush.advances = e.advances := by
  cases h : e.flushes <;> simp [Env.afterFlush, h]

@[simp] theorem Env.afterFlush_writes (e : Env) : e.afterFlush.writes = e.writes := by
  cases h : e.flushes <;> simp [Env.afterFlush, h]

@[simp] theorem Env.afterFlush_reads (e : Env) : e.afterFlush.reads = e.reads := by
  cases h : e.flushes <;> simp [Env.afterFlush, h]

@[simp] theorem Env.afterFlush_readsThen (e : Env) : e.afterFlush.readsThen = e.readsThen := by
  cases h : e.flushes <;> simp [Env.afterFlush, h]

@[simp] theorem Env.afterFlush_mute (e : Env) : e.afterFlush.mute = e.mute := by
  cases h : e.flushes <;> simp [Env.afterFlush, h]

@[simp] theorem Env.afterFlush_tx (e : Env) : e.afterFlush.tx = e.tx := by
  cases h : e.flushes <;> simp [Env.afterFlush, h]

@[simp] theorem Env.afterFlush_flushes (e : Env) : e.afterFlush.flushes = e.flushes.tail := by
  cases h : e.flushes <;> simp [Env.afterFlush, h]

/-! ### `Env.afterRead` -/

/-- R38, R128: what a T.READ leaves of the environment: the script loses its head, or is constant from here on, or a
draw has been made. -/
theorem Env.afterRead_cases (e : Env) :
    (∃ a as, e.reads = a :: as ∧ e.afterRead = { e with reads := as }) ∨
      (e.reads = [] ∧ (∃ a, e.readsThen = some a) ∧ e.afterRead = e) ∨
      (e.reads = [] ∧ e.readsThen = none ∧ e.afterRead = { e with draws := e.draws + 1 }) := by
  cases h : e.reads <;> cases h' : e.readsThen <;> simp [Env.afterRead, h, h']

@[simp] theorem Env.afterRead_now (e : Env) : e.afterRead.now = e.now := by
  obtain ⟨_, _, -, h⟩ | ⟨-, -, h⟩ | ⟨-, -, h⟩ := e.afterRead_cases <;> rw [h]

@[simp] theorem Env.afterRead_advances (e : Env) : e.afterRead.advances = e.advances := by
  obtain ⟨_, _, -, h⟩ | ⟨-, -, h⟩ | ⟨-, -, h⟩ := e.afterRead_cases <;> rw [h]

@[simp] theorem Env.afterRead_writes (e : Env) : e.afterRead.writes = e.writes := by
  obtain ⟨_, _, -, h⟩ | ⟨-, -, h⟩ | ⟨-, -, h⟩ := e.afterRead_cases <;> rw [h]

@[simp] theorem Env.afterRead_flushes (e : Env) : e.afterRead.flushes = e.flushes := by
  obtain ⟨_, _, -, h⟩ | ⟨-, -, h⟩ | ⟨-, -, h⟩ := e.afterRead_cases <;> rw [h]

@[simp] theorem Env.afterRead_readsThen (e : Env) : e.afterRead.readsThen = e.readsThen := by
  obtain ⟨_, _, -, h⟩ | ⟨-, -, h⟩ | ⟨-, -, h⟩ := e.afterRead_cases <;> rw [h]

@[simp] theorem Env.afterRead_mute (e : Env) : e.afterRead.mute = e.mute := by
  obtain ⟨_, _, -, h⟩ | ⟨-, -, h⟩ | ⟨-, -, h⟩ := e.afterRead_cases <;> rw [h]

@[simp] theorem Env.afterRead_tx (e : Env) : e.afterRead.tx = e.tx := by
  obtain ⟨_, _, -, h⟩ | ⟨-, -, h⟩ | ⟨-, -, h⟩ := e.afterRead_cases <;> rw [h]

@[simp] theorem Env.afterRead_reads (e : Env) : e.afterRead.reads = e.reads.tail := by
  obtain ⟨_, _, hr, h⟩ | ⟨hr, -, h⟩ | ⟨hr, -, h⟩ := e.afterRead_cases <;> simp [h, hr]

/-- R7: `now()` never runs back. -/
theorem Env.now_le_nextNow (e : Env) : e.now ≤ e.nextNow := by
  cases h : e.advances <;> simp [Env.nextNow, h]

/-- R124: a drawn answer is always inside the types. -/
theorem freeRead_inTypes (max : Nat) (hmax : 1 ≤ max) (r : FreeRead) : answerInTypes max (r.answer max) = true := by
  cases r with
  | data b more =>
    simp only [FreeRead.answer, answerInTypes, List.length_cons, List.length_take, Bool.and_eq_true,
      decide_eq_true_eq]
    omega
  | noData => rfl
  | eos => rfl
  | fatal e => rfl

/-- R124: the next read's answer is inside the types when the settled answers are. -/
theorem Env.readAnswer_inTypes (e : Env) (max : Nat) (hmax : 1 ≤ max) (h : ∀ a ∈ e.reads, answerInTypes max a = true)
    (h' : ∀ a ∈ e.readsThen, answerInTypes max a = true) : answerInTypes max (e.readAnswer max) = true := by
  cases hr : e.reads with
  | cons a as => simpa [Env.readAnswer, hr] using h a (by simp [hr])
  | nil =>
    cases ht : e.readsThen with
    | none => simpa [Env.readAnswer, hr, ht] using freeRead_inTypes max hmax (Config.freeRead e.draws)
    | some a => simpa [Env.readAnswer, hr, ht] using h' a (by simp [ht])

end Sys2Proof.Machine
end

