-- ==== Sys2Proof/Laws/Ops.lean ====
section
/-!
SUPPORT. What the operations that branch on a parameter or on the match bit do to each field: accepting a call (R92),
the end of the send (R94), a clean end-of-stream (R126), a complete frame (R101 to R103), a reset (R160 to R162).
-/

namespace Sys2Proof.Machine

/-! ### `State.acceptCall` (R92) -/

@[simp] theorem State.acceptCall_phase (s : State) (cmd : Byte) (payload : Bytes) (timeout : Time) :
    (s.acceptCall cmd payload timeout).phase = .sendWrite := by
  unfold State.acceptCall; split <;> rfl

@[simp] theorem State.acceptCall_reqCmd (s : State) (cmd : Byte) (payload : Bytes) (timeout : Time) :
    (s.acceptCall cmd payload timeout).reqCmd = cmd := by
  unfold State.acceptCall; split <;> rfl

@[simp] theorem State.acceptCall_reqPayload (s : State) (cmd : Byte) (payload : Bytes) (timeout : Time) :
    (s.acceptCall cmd payload timeout).reqPayload = payload := by
  unfold State.acceptCall; split <;> rfl

@[simp] theorem State.acceptCall_buf (s : State) (cmd : Byte) (payload : Bytes) (timeout : Time) :
    (s.acceptCall cmd payload timeout).buf = [] := by
  unfold State.acceptCall; split <;> rfl

@[simp] theorem State.acceptCall_rxBase (s : State) (cmd : Byte) (payload : Bytes) (timeout : Time) :
    (s.acceptCall cmd payload timeout).rxBase = 0 := by
  unfold State.acceptCall; split <;> rfl

@[simp] theorem State.acceptCall_rxSeen (s : State) (cmd : Byte) (payload : Bytes) (timeout : Time) :
    (s.acceptCall cmd payload timeout).rxSeen = 0 := by
  unfold State.acceptCall; split <;> rfl

@[simp] theorem State.acceptCall_rx (s : State) (cmd : Byte) (payload : Bytes) (timeout : Time) :
    (s.acceptCall cmd payload timeout).rx = [] := by
  unfold State.acceptCall; split <;> rfl

@[simp] theorem State.acceptCall_waitUntil (s : State) (cmd : Byte) (payload : Bytes) (timeout : Time) :
    (s.acceptCall cmd payload timeout).waitUntil = s.waitUntil := by
  unfold State.acceptCall; split <;> rfl

@[simp] theorem State.acceptCall_result (s : State) (cmd : Byte) (payload : Bytes) (timeout : Time) :
    (s.acceptCall cmd payload timeout).result = s.result := by
  unfold State.acceptCall; split <;> rfl

@[simp] theorem State.acceptCall_par (s : State) (cmd : Byte) (payload : Bytes) (timeout : Time) :
    (s.acceptCall cmd payload timeout).par = s.par := by
  unfold State.acceptCall; split <;> rfl

@[simp] theorem State.acceptCall_program (s : State) (cmd : Byte) (payload : Bytes) (timeout : Time) :
    (s.acceptCall cmd payload timeout).program = s.program := by
  unfold State.acceptCall; split <;> rfl

/-! ### `State.requestSent` (R94) -/

@[simp] theorem State.requestSent_phase (s : State) :
    (s.requestSent).phase = .sent := by
  unfold State.requestSent; split <;> rfl

@[simp] theorem State.requestSent_reqCmd (s : State) :
    (s.requestSent).reqCmd = s.reqCmd := by
  unfold State.requestSent; split <;> rfl

@[simp] theorem State.requestSent_reqPayload (s : State) :
    (s.requestSent).reqPayload = s.reqPayload := by
  unfold State.requestSent; split <;> rfl

@[simp] theorem State.requestSent_buf (s : State) :
    (s.requestSent).buf = s.buf := by
  unfold State.requestSent; split <;> rfl

@[simp] theorem State.requestSent_rxBase (s : State) :
    (s.requestSent).rxBase = s.rxBase := by
  unfold State.requestSent; split <;> rfl

@[simp] theorem State.requestSent_rxSeen (s : State) :
    (s.requestSent).rxSeen = s.rxSeen := by
  unfold State.requestSent; split <;> rfl

@[simp] theorem State.requestSent_rx (s : State) :
    (s.requestSent).rx = s.rx := by
  unfold State.requestSent; split <;> rfl

@[simp] theorem State.requestSent_waitUntil (s : State) :
    (s.requestSent).waitUntil = s.waitUntil := by
  unfold State.requestSent; split <;> rfl

@[simp] theorem State.requestSent_result (s : State) :
    (s.requestSent).result = s.result := by
  unfold State.requestSent; split <;> rfl

@[simp] theorem State.requestSent_par (s : State) :
    (s.requestSent).par = s.par := by
  unfold State.requestSent; split <;> rfl

@[simp] theorem State.requestSent_program (s : State) :
    (s.requestSent).program = s.program := by
  unfold State.requestSent; split <;> rfl

/-! ### `State.endOfStream` (R126) -/

@[simp] theorem State.endOfStream_reqCmd (s : State) :
    (s.endOfStream).reqCmd = s.reqCmd := by
  unfold State.endOfStream; split <;> rfl

@[simp] theorem State.endOfStream_reqPayload (s : State) :
    (s.endOfStream).reqPayload = s.reqPayload := by
  unfold State.endOfStream; split <;> rfl

@[simp] theorem State.endOfStream_deadline (s : State) :
    (s.endOfStream).deadline = s.deadline := by
  unfold State.endOfStream; split <;> rfl

@[simp] theorem State.endOfStream_rxBase (s : State) :
    (s.endOfStream).rxBase = s.rxBase := by
  unfold State.endOfStream; split <;> rfl

@[simp] theorem State.endOfStream_rxSeen (s : State) :
    (s.endOfStream).rxSeen = s.rxSeen := by
  unfold State.endOfStream; split <;> rfl

@[simp] theorem State.endOfStream_rx (s : State) :
    (s.endOfStream).rx = s.rx := by
  unfold State.endOfStream; split <;> rfl

@[simp] theorem State.endOfStream_par (s : State) :
    (s.endOfStream).par = s.par := by
  unfold State.endOfStream; split <;> rfl

@[simp] theorem State.endOfStream_program (s : State) :
    (s.endOfStream).program = s.program := by
  unfold State.endOfStream; split <;> rfl

/-! ### `State.takeFrame` (R101 to R103) -/

@[simp] theorem State.takeFrame_reqCmd (s : State) (pkt : Packet) (n : Nat) :
    (s.takeFrame pkt n).reqCmd = s.reqCmd := by
  unfold State.takeFrame; split <;> rfl

@[simp] theorem State.takeFrame_reqPayload (s : State) (pkt : Packet) (n : Nat) :
    (s.takeFrame pkt n).reqPayload = s.reqPayload := by
  unfold State.takeFrame; split <;> rfl

@[simp] theorem State.takeFrame_deadline (s : State) (pkt : Packet) (n : Nat) :
    (s.takeFrame pkt n).deadline = s.deadline := by
  unfold State.takeFrame; split <;> rfl

@[simp] theorem State.takeFrame_waitUntil (s : State) (pkt : Packet) (n : Nat) :
    (s.takeFrame pkt n).waitUntil = s.waitUntil := by
  unfold State.takeFrame; split <;> rfl

@[simp] theorem State.takeFrame_rxBase (s : State) (pkt : Packet) (n : Nat) :
    (s.takeFrame pkt n).rxBase = s.rxBase + n := by
  unfold State.takeFrame; split <;> rfl

@[simp] theorem State.takeFrame_rxSeen (s : State) (pkt : Packet) (n : Nat) :
    (s.takeFrame pkt n).rxSeen = s.rxSeen := by
  unfold State.takeFrame; split <;> rfl

@[simp] theorem State.takeFrame_rx (s : State) (pkt : Packet) (n : Nat) :
    (s.takeFrame pkt n).rx = s.rx := by
  unfold State.takeFrame; split <;> rfl

@[simp] theorem State.takeFrame_par (s : State) (pkt : Packet) (n : Nat) :
    (s.takeFrame pkt n).par = s.par := by
  unfold State.takeFrame; split <;> rfl

@[simp] theorem State.takeFrame_program (s : State) (pkt : Packet) (n : Nat) :
    (s.takeFrame pkt n).program = s.program := by
  unfold State.takeFrame; split <;> rfl

@[simp] theorem State.takeFrame_env (s : State) (pkt : Packet) (n : Nat) :
    (s.takeFrame pkt n).env = s.env := by
  unfold State.takeFrame; split <;> rfl

@[simp] theorem State.takeFrame_trace (s : State) (pkt : Packet) (n : Nat) :
    (s.takeFrame pkt n).trace = s.trace := by
  unfold State.takeFrame; split <;> rfl

/-- R92: an accepted call records nothing but, at most, a look at the clock. -/
theorem State.acceptCall_trace_env (s : State) (cmd : Byte) (payload : Bytes) (timeout : Time) :
    ((s.acceptCall cmd payload timeout).trace = .clk s.env.nextNow :: s.trace ∧
        (s.acceptCall cmd payload timeout).env = s.env.look) ∨
      ((s.acceptCall cmd payload timeout).trace = s.trace ∧ (s.acceptCall cmd payload timeout).env = s.env) := by
  unfold State.acceptCall
  split
  · exact .inl ⟨rfl, rfl⟩
  · exact .inr ⟨rfl, rfl⟩

/-- R94: a sent request records nothing but, at most, a look at the clock. -/
theorem State.requestSent_trace_env (s : State) :
    (s.requestSent.trace = .clk s.env.nextNow :: s.trace ∧ s.requestSent.env = s.env.look) ∨
      (s.requestSent.trace = s.trace ∧ s.requestSent.env = s.env) := by
  unfold State.requestSent
  split
  · exact .inr ⟨rfl, rfl⟩
  · exact .inl ⟨rfl, rfl⟩

/-- R126: an end-of-stream arms the wait or ends the call. -/
theorem State.endOfStream_cases (s : State) :
    s.endOfStream = s.armWait ∨
      ∃ e, s.endOfStream = { s with env := { s.env with draws := s.env.draws + 1 } }.finish (.ioFailed e) := by
  unfold State.endOfStream
  split
  · exact .inl rfl
  · exact .inr ⟨_, rfl⟩

/-- R160 to R162: a reset answers between calls only, with the block's fields at their reset values and the rest kept. -/
theorem State.resetBlock_next {s t : State} (h : s.resetBlock = .next t) :
    s.phase = .idle ∧ t = { State.resetBeside s.par s.env with program := s.program, trace := s.trace } := by
  unfold State.resetBlock at h
  split_ifs at h with hp
  exact ⟨not_not.mp hp, by injection h with h; exact h.symm⟩

@[simp] theorem readLimit_rdMax (par : Params) : readLimit par par.rdMax = par.rdMax := Nat.min_self _

theorem readLimit_le (par : Params) (max : Nat) : readLimit par max ≤ max ∧ readLimit par max ≤ par.rdMax :=
  ⟨Nat.min_le_left _ _, Nat.min_le_right _ _⟩

/-- R102, R103: the two ways a complete frame ends. -/
theorem State.takeFrame_cases (s : State) (pkt : Packet) (n : Nat) :
    (pkt.cmd = s.reqCmd ∧ s.takeFrame pkt n = (s.bufDrop n).finish (.ok pkt.payload)) ∨
      (pkt.cmd ≠ s.reqCmd ∧ s.takeFrame pkt n = { s.bufDrop n with phase := .awaitDecode }) := by
  by_cases h : pkt.cmd = s.reqCmd
  · exact .inl ⟨h, by simp [State.takeFrame, State.matchBit, h]⟩
  · exact .inr ⟨h, by simp [State.takeFrame, State.matchBit, h]⟩

end Sys2Proof.Machine
end

