-- ==== Sys2Proof/Laws/Engine.lean ====
section
/-!
SUPPORT. What each meaning can answer with a next state, said once: one inversion lemma per micro-operation, and the
frame's agreement with XE.DECODE.
-/

namespace Sys2Proof.Machine

variable {s t : State}

theorem execXeCall_next {cmd : Byte} {payload : Bytes} {timeout : Time}
    (h : execXeCall cmd payload timeout s = .next t) :
    s.phase = .idle ∧
      ((payload.length ≤ 253 ∧ t = (s.record (.hCall cmd payload timeout)).acceptCall cmd payload timeout) ∨
        (253 < payload.length ∧
          t = { s.record (.hCall cmd payload timeout) with result := .invalidParameter, phase := .done })) := by
  unfold execXeCall at h
  split_ifs at h with h1 h2 <;> simp only [payloadFits, maxPayload, decide_eq_true_eq] at *
  · exact ⟨not_not.mp h1, .inl ⟨h2, by injection h with h; exact h.symm⟩⟩
  · exact ⟨not_not.mp h1, .inr ⟨by omega, by injection h with h; exact h.symm⟩⟩

theorem execXeWrite_next (h : execXeWrite s = .next t) :
    s.phase = .sendWrite ∧ s.reqPayload.length ≤ 253 ∧ s.env.mute = false ∧
      ((s.env.writeAnswer = .ok ∧
          t = { s.issueWrite (encodePacket s.reqCmd s.reqPayload) with phase := .sendFlush }) ∨
        ∃ e n, s.env.writeAnswer = .fail e n ∧
          t = (s.issueWrite (encodePacket s.reqCmd s.reqPayload)).finish (.ioFailed e)) := by
  unfold execXeWrite at h
  split_ifs at h with h1 h2 h3
  simp only [payloadFits, maxPayload, Bool.not_eq_true', Bool.not_eq_true, decide_eq_false_iff_not] at h2 h3
  refine ⟨not_not.mp h1, by omega, h3, ?_⟩
  split at h <;> injection h with h
  · exact .inl ⟨by assumption, h.symm⟩
  · exact .inr ⟨_, _, by assumption, h.symm⟩

theorem execXeFlush_next (h : execXeFlush s = .next t) :
    s.phase = .sendFlush ∧ s.env.mute = false ∧
      ((s.env.flushAnswer = .ok ∧ t = s.issueFlush.requestSent) ∨
        ∃ e, s.env.flushAnswer = .fail e ∧ t = s.issueFlush.finish (.ioFailed e)) := by
  unfold execXeFlush at h
  split_ifs at h with h1 h2
  refine ⟨not_not.mp h1, by simpa using h2, ?_⟩
  split at h <;> injection h with h
  · exact .inl ⟨by assumption, h.symm⟩
  · exact .inr ⟨_, by assumption, h.symm⟩

theorem execXeEnter_next (h : execXeEnter s = .next t) :
    s.phase = .sent ∧ t = { s with phase := .awaitCheck } := by
  unfold execXeEnter at h
  split_ifs at h with h1
  exact ⟨not_not.mp h1, by injection h with h; exact h.symm⟩

theorem execXeCheck_next (h : execXeCheck s = .next t) :
    s.phase = .awaitCheck ∧
      ((s.deadline ≤ s.env.nextNow ∧ t = s.look.finish .timedOut) ∨
        (s.env.nextNow < s.deadline ∧ t = { s.look with phase := .awaitRead })) := by
  unfold execXeCheck at h
  split_ifs at h with h1 h2 <;> simp [State.deadlineReached] at h2 <;> injection h with h
  · exact ⟨not_not.mp h1, .inl ⟨h2, h.symm⟩⟩
  · exact ⟨not_not.mp h1, .inr ⟨h2, h.symm⟩⟩

theorem execXeRead_next (h : execXeRead s = .next t) :
    s.phase = .awaitRead ∧ s.env.mute = false ∧
      ((∃ bs, s.env.readAnswer s.par.rdMax = .data bs ∧ 1 ≤ bs.length ∧ bs.length ≤ s.par.rdMax ∧
          t = { (s.issueRead s.par.rdMax).bufAppend bs with phase := .awaitDecode }) ∨
        (s.env.readAnswer s.par.rdMax = .noData ∧ t = (s.issueRead s.par.rdMax).armWait) ∨
        (s.env.readAnswer s.par.rdMax = .eos ∧ t = (s.issueRead s.par.rdMax).endOfStream) ∨
        ∃ e, s.env.readAnswer s.par.rdMax = .fatal e ∧ t = (s.issueRead s.par.rdMax).finish (.ioFailed e)) := by
  unfold execXeRead at h
  split_ifs at h with h1 h2 h3
  refine ⟨not_not.mp h1, by simpa using h2, ?_⟩
  split at h <;> injection h with h
  · rename_i bs hbs
    simp only [hbs, answerInTypes, Bool.not_eq_true', Bool.and_eq_false_iff, decide_eq_false_iff_not] at h3
    exact .inl ⟨bs, hbs, by omega, by omega, h.symm⟩
  · exact .inr (.inl ⟨by assumption, h.symm⟩)
  · exact .inr (.inr (.inl ⟨by assumption, h.symm⟩))
  · exact .inr (.inr (.inr ⟨_, by assumption, h.symm⟩))

theorem execXeWait_next (h : execXeWait s = .next t) :
    s.phase = .awaitWait ∧
      ((s.waitUntil ≤ s.env.nextNow ∧ t = { s.look with phase := .awaitCheck }) ∨
        (s.env.nextNow < s.waitUntil ∧ t = s.look)) := by
  unfold execXeWait at h
  split_ifs at h with h1 h2 <;> simp [State.waitOver] at h2 <;> injection h with h
  · exact ⟨not_not.mp h1, .inl ⟨h2, h.symm⟩⟩
  · exact ⟨not_not.mp h1, .inr ⟨h2, h.symm⟩⟩

theorem execXeDecode_next (h : execXeDecode s = .next t) :
    s.phase = .awaitDecode ∧
      ((s.verdict = .incomplete ∧ t = { s with phase := .awaitCheck }) ∨
        (∃ r, s.verdict = .invalid r ∧ t = { s.bufDrop 1 with phase := .awaitDecode }) ∨
        ∃ pkt n, s.verdict = .complete pkt n ∧ t = s.takeFrame pkt n) := by
  unfold execXeDecode at h
  split_ifs at h with h1
  refine ⟨not_not.mp h1, ?_⟩
  split at h <;> injection h with h
  · exact .inl ⟨by assumption, h.symm⟩
  · exact .inr (.inl ⟨_, by assumption, h.symm⟩)
  · exact .inr (.inr ⟨_, _, by assumption, h.symm⟩)

theorem execXeReturn_next (h : execXeReturn s = .next t) : s.phase = .done ∧ t = s.handBack := by
  unfold execXeReturn at h
  split_ifs at h with h1
  exact ⟨not_not.mp h1, by injection h with h; exact h.symm⟩

/-- A frame is what XE.DECODE does on its `Complete` branch (R99, R101). -/
theorem receiveFrame_eq_execXeDecode {pkt : Packet} {n : Nat} (h : s.verdict = .complete pkt n) :
    receiveFrame pkt s = execXeDecode s := by
  have hn : pkt.payload.length + 5 = n := (decodeBytes_complete_length h).2.2.2
  subst hn
  simp [receiveFrame, execXeDecode, h]

theorem receiveFrame_next {pkt : Packet} (h : receiveFrame pkt s = .next t) :
    s.phase = .awaitDecode ∧ s.verdict = .complete pkt (pkt.payload.length + 5) ∧
      t = s.takeFrame pkt (pkt.payload.length + 5) := by
  unfold receiveFrame at h
  split_ifs at h with h1 h2
  exact ⟨not_not.mp h1, h2, by injection h with h; exact h.symm⟩

theorem execTWrite_next {bytes : Bytes} (h : execTWrite bytes s = .next t) :
    s.phase = .sendWrite ∧ s.env.mute = false ∧ t = s.issueWrite bytes := by
  unfold execTWrite at h
  split_ifs at h with h1 h2
  exact ⟨not_not.mp h1, by simpa using h2, by injection h with h; exact h.symm⟩

theorem execTFlush_next (h : execTFlush s = .next t) :
    s.phase = .sendFlush ∧ s.env.mute = false ∧ t = s.issueFlush := by
  unfold execTFlush at h
  split_ifs at h with h1 h2
  exact ⟨not_not.mp h1, by simpa using h2, by injection h with h; exact h.symm⟩

theorem execTRead_next {max : Nat} (h : execTRead max s = .next t) :
    s.phase = .awaitRead ∧ s.env.mute = false ∧
      answerInTypes (readLimit s.par max) (s.env.readAnswer (readLimit s.par max)) = true ∧
      t = s.issueRead (readLimit s.par max) := by
  unfold execTRead at h
  split_ifs at h with h1 h2 h3
  exact ⟨not_not.mp h1, by simpa using h2, h3, by injection h with h; exact h.symm⟩

/-- The meaning of the instruction a packet is, FRAME or GET_ANGLES. -/
theorem exec_packetInstr (pkt : Packet) (s : State) : exec (packetInstr pkt) s = receiveFrame pkt s := by
  unfold packetInstr
  split
  · rename_i h; simp [exec, execGetAngles, ← h]
  · simp [exec, execFrame]

end Sys2Proof.Machine
end

