-- ==== Sys2Proof/Laws/PerInstr.lean ====
section
/-!
SUPPORT. One lemma per instruction: an instruction that has a bit pattern is encoded in 5 to 258 bytes when it is well
formed (30_encoding.md R61).
-/

namespace Sys2Proof.Laws.EncodedLength

/-- R61: the words of a well-formed instruction are 5 to 258 bytes. -/
def Statement (i : Instr) : Prop :=
  i.wellFormed = true → ∀ bs, encodeInstr i = some bs → 5 ≤ bs.length ∧ bs.length ≤ 258

theorem encodePacket_length (cmd : Byte) (payload : Bytes) : (encodePacket cmd payload).length = payload.length + 5 := by
  simp [encodePacket]

theorem of_packet {i : Instr} {cmd : Byte} {payload : Bytes} (he : encodeInstr i = some (encodePacket cmd payload))
    (hw : i.wellFormed = true → payload.length ≤ 253) : Statement i := by
  intro h bs hb
  obtain rfl : encodePacket cmd payload = bs := by simpa [he] using hb
  have := hw h
  rw [encodePacket_length]; omega

theorem of_none {i : Instr} (he : encodeInstr i = none) : Statement i := by
  intro _ bs hb; simp [he] at hb

theorem frame (cmd : Byte) (payload : Bytes) : Statement (.frame cmd payload) :=
  of_packet rfl fun h => by simp [Instr.wellFormed] at h; exact h.1
theorem getAngles (payload : Bytes) : Statement (.getAngles payload) :=
  of_packet rfl fun h => by simpa [Instr.wellFormed] using h
theorem encode (cmd : Byte) (payload : Bytes) : Statement (.encode cmd payload) := of_none rfl
theorem decode (b : Bytes) : Statement (.decode b) := of_none rfl
theorem opcodeOf (command : Command) : Statement (.opcodeOf command) := of_none rfl
theorem commandOf (b : Byte) : Statement (.commandOf b) := of_none rfl
theorem sendAndAwait (cmd : Byte) (payload : Bytes) (timeout : Time) : Statement (.sendAndAwait cmd payload timeout) :=
  of_none rfl
theorem xeCall (cmd : Byte) (payload : Bytes) (timeout : Time) : Statement (.xeCall cmd payload timeout) := of_none rfl
theorem xeWrite : Statement .xeWrite := of_none rfl
theorem xeFlush : Statement .xeFlush := of_none rfl
theorem xeEnter : Statement .xeEnter := of_none rfl
theorem xeCheck : Statement .xeCheck := of_none rfl
theorem xeRead : Statement .xeRead := of_none rfl
theorem xeWait : Statement .xeWait := of_none rfl
theorem xeDecode : Statement .xeDecode := of_none rfl
theorem xeReturn : Statement .xeReturn := of_none rfl
theorem tWrite (bytes : Bytes) : Statement (.tWrite bytes) := of_none rfl
theorem tFlush : Statement .tFlush := of_none rfl
theorem tRead (max : Nat) : Statement (.tRead max) := of_none rfl

end Sys2Proof.Laws.EncodedLength
end

