-- ==== Sys2Proof/Laws/Step.lean ====
section
/-!
SUPPORT. What a step can be, said once: the host's operation, or one micro-operation of the engine, or nothing.
-/

namespace Sys2Proof.Machine

variable {s t : State}

/-- The engine's next instruction does what the phase's micro-operation does, a frame in AwaitDecode included. -/
theorem exec_engineInstr {i : Instr} (h : engineInstr s = some i) : exec i s = microStep s := by
  cases hp : s.phase with
  | awaitDecode =>
    simp only [engineInstr, hp] at h
    simp only [microStep, hp]
    split at h <;> cases h
    · rename_i hd
      unfold decodeInstr at hd
      split at hd <;> cases hd
      rename_i hv
      rw [exec_packetInstr, receiveFrame_eq_execXeDecode hv]
    · rfl
  | _ =>
    simp only [engineInstr, hp] at h
    cases h
    all_goals simp only [microStep, hp]; rfl

/-- Idle has no micro-operation; every other phase has one (R106). -/
theorem engineInstr_none_iff : engineInstr s = none ↔ s.phase = .idle := by
  unfold engineInstr
  split <;> rename_i hp <;> simp [hp]
  split <;> simp

/-- A step is the host's operation, taken from its program, or the engine's micro-operation. -/
theorem step_cases (s : State) :
    (∃ op ops, s.program = op :: ops ∧ (hostOpAnyPhase op = true ∨ s.phase = .idle) ∧
        step s = exec (hostInstr op) { s with program := ops }) ∨
      (hostReady s = false ∧ step s = microStep s) := by
  cases hr : hostReady s with
  | false =>
    refine .inr ⟨rfl, ?_⟩
    have hn : s.nextInstr = engineInstr s := by
      unfold State.nextInstr
      split
      · rfl
      · simp [hr]
    have ha : s.afterFetch = s := by simp [State.afterFetch, hr]
    unfold step
    rw [hn, ha]
    cases he : engineInstr s with
    | some i => exact exec_engineInstr he
    | none => simp [microStep, engineInstr_none_iff.mp he]
  | true =>
    cases hp : s.program with
    | nil => simp [hostReady, hp] at hr
    | cons op ops =>
      refine .inl ⟨op, ops, rfl, ?_, ?_⟩
      · simpa [hostReady, hp] using hr
      · simp [step, State.nextInstr, State.afterFetch, hp, hr]

/-- What every micro-operation keeps, a run of the engine keeps. -/
theorem runCall_induct {P : State → Prop} (hstep : ∀ s t, P s → microStep s = .next t → P t) :
    ∀ n s t, P s → runCall n s = .next t → P t := by
  intro n
  induction n with
  | zero => intro s t hs h; cases h; exact hs
  | succ n ih =>
    intro s t hs h
    unfold runCall at h
    split at h
    · cases h; exact hs
    · split at h
      · rename_i u hu
        exact ih u t (hstep s u hs hu) h
      · cases h
      · cases h

/-- A call runs as XE.CALL and then the engine (R90). -/
theorem execSendAndAwait_next {cmd : Byte} {payload : Bytes} {timeout : Time}
    (h : execSendAndAwait cmd payload timeout s = .next t) :
    ∃ u, execXeCall cmd payload timeout s = .next u ∧ runCall (callBudget s) u = .next t := by
  unfold execSendAndAwait at h
  split at h
  · exact ⟨_, by assumption, h⟩
  · cases h
  · cases h

/-- To keep a property at every step it is enough that the codec and registry operations, XE.CALL and the
micro-operations keep it. -/
theorem step_induct {P : State → Prop}
    (hpop : ∀ s ops, P s → P { s with program := ops })
    (hrec : ∀ s tr, P s → transportOp tr = none → (∀ c p k, tr ≠ .hCall c p k) → P (s.record tr))
    (hcall : ∀ s t c p k, P s → execXeCall c p k s = .next t → P t)
    (hmicro : ∀ s t, P s → microStep s = .next t → P t)
    (hs : P s) (h : step s = .next t) : P t := by
  rcases step_cases s with ⟨op, ops, -, -, he⟩ | ⟨-, he⟩
  · rw [he] at h
    have hp := hpop s ops hs
    cases op with
    | encode c p =>
      simp only [hostInstr, exec, execEncode] at h
      split at h <;> cases h
      exact hrec _ _ hp rfl (by simp)
    | decode b => cases h; exact hrec _ _ hp rfl (by simp)
    | opcodeOf c =>
      simp only [hostInstr, exec, execOpcodeOf] at h
      split at h <;> cases h
      exact hrec _ _ hp rfl (by simp)
    | commandOf b => cases h; exact hrec _ _ hp rfl (by simp)
    | call c p k => exact hcall _ _ _ _ _ hp h
    | sendAndAwait c p k =>
      obtain ⟨u, hu, hr⟩ := execSendAndAwait_next h
      exact runCall_induct hmicro _ _ _ (hcall _ _ _ _ _ hp hu) hr
  · rw [he] at h
    exact hmicro _ _ hs h

end Sys2Proof.Machine
end

