-- ==== Sys2Proof/Tests/Slice0.lean ====
section
/-!
SUPPORT. The model's own tests, on the vectors of 95_test_vectors.md (E, V, G, M, S and P rows, cited by id), and for
each statement with hypotheses a witness that meets them.
-/

namespace Sys2Proof.Tests

open Sys2Proof Sys2Proof.Machine

/-! ### Helpers -/

/-- The parameters of the vectors (95_test_vectors.md section 0), with room for 16 bytes in a read. -/
def par : Params where
  retryInterval := 10
  rdMax := 16
  known := [(.getAngles, 0x20#8)]
  lenCheck := .late
  eosPolicy := .asNoData
  deadlineOrigin := .beforeWrite

/-- A transport that answers `Ok` to one write and one flush and gives one read, beside a clock at `now`. -/
def env (now : Time) (advances : List Time) (reads : List ReadAnswer) : Env where
  now := now
  advances := advances
  writes := [.ok]
  flushes := [.ok]
  reads := reads
  readsThen := none
  mute := false
  tx := []
  draws := 0

/-- The block as the M rows write it: phase, buffer, `req = (20, [])`, deadline 140, wait until 67. -/
def st (phase : Phase) (buf : Bytes) (e : Env := env 0 [0, 0] []) : State where
  phase := phase
  reqCmd := 0x20#8
  reqPayload := []
  deadline := 140
  waitUntil := 67
  buf := buf
  result := .ok []
  rxBase := 0
  rxSeen := buf.length
  rx := buf
  par := par
  program := []
  env := e
  trace := []

/-- What the M rows show of a next state; nothing for a stop. -/
def view : Host.Outcome State Fault Refusal → Option (Phase × Bytes × Time × Time × CallOutcome)
  | .next s => some (s.phase, s.buf, s.deadline, s.waitUntil, s.result)
  | .fault _ => none
  | .refused _ => none

/-- Why a step was refused. -/
def why : Host.Outcome State Fault Refusal → Option Refusal
  | .next _ => none
  | .fault _ => none
  | .refused r => some r

/-- Whether a step ended in the fault of a silent transport. -/
def stuck : Host.Outcome State Fault Refusal → Bool
  | .next _ => false
  | .fault .transportNeverAnswers => true
  | .refused _ => false

/-- One field of a next state. -/
def field {α : Type} (f : State → α) : Host.Outcome State Fault Refusal → Option α
  | .next s => some (f s)
  | .fault _ => none
  | .refused _ => none

/-- `n` zero bytes. -/
def zeros (n : Nat) : Bytes := List.replicate n 0#8

/-- E1, V11. -/
def getAnglesFrame : Bytes := [0xFE#8, 0xFE#8, 0x02#8, 0x20#8, 0xFA#8]

/-- E3, V20. -/
def otherFrame : Bytes := [0xFE#8, 0xFE#8, 0x03#8, 0x21#8, 0x07#8, 0xFA#8]

/-! ### WellFormed refuses an ill-formed term for each of its checks -/

theorem test_wf_frame_length : (Instr.frame 0x21#8 (zeros 254)).wellFormed = false := by decide +kernel
theorem test_wf_frame_is_getAngles : (Instr.frame 0x20#8 []).wellFormed = false := by decide
theorem test_wf_getAngles_length : (Instr.getAngles (zeros 254)).wellFormed = false := by decide +kernel
theorem test_wf_encode_length : (Instr.encode 0x20#8 (zeros 254)).wellFormed = false := by decide +kernel
theorem test_wf_tWrite_short : (Instr.tWrite (zeros 4)).wellFormed = false := by decide
theorem test_wf_tWrite_long : (Instr.tWrite (zeros 259)).wellFormed = false := by decide +kernel
theorem test_wf_tRead_none : (Instr.tRead 0).wellFormed = false := by decide
theorem test_wf_largest :
    (Instr.frame 0x21#8 (zeros 253)).wellFormed = true ∧ (Instr.tWrite (zeros 258)).wellFormed = true := by decide +kernel

/-! ### Words written out from the frame table (R50): they decode, and the encoder gives them -/

theorem test_word_getAngles :
    decodeInstr .late getAnglesFrame = some (.getAngles []) ∧
      encodeInstr (.getAngles []) = some getAnglesFrame := by decide
/-- Scenario 2 of the source (X8, V28): 17 bytes consumed, not 16 (C1). -/
theorem test_word_getAngles_twelve :
    decodeInstr .late ([0xFE#8, 0xFE#8, 0x0E#8, 0x20#8] ++ zeros 12 ++ [0xFA#8]) = some (.getAngles (zeros 12)) ∧
      decodeBytes .late ([0xFE#8, 0xFE#8, 0x0E#8, 0x20#8] ++ zeros 12 ++ [0xFA#8]) =
        .complete { cmd := 0x20#8, payload := zeros 12 } 17 := by decide
theorem test_word_frame :
    decodeInstr .late otherFrame = some (.frame 0x21#8 [0x07#8]) ∧
      encodeInstr (.frame 0x21#8 [0x07#8]) = some otherFrame := by decide
/-- E7, V22. -/
theorem test_word_frame_not_escaped :
    decodeInstr .late [0xFE#8, 0xFE#8, 0x05#8, 0x10#8, 0xFE#8, 0xFE#8, 0xFA#8, 0xFA#8] =
      some (.frame 0x10#8 [0xFE#8, 0xFE#8, 0xFA#8]) := by decide
/-- opcode_table.json numbers byte 0 at bits 31:24; the footer has no bits and is filled in (log 9). -/
theorem test_table_word : decodeTableWord 32 0xFEFE0220 = some (.getAngles []) := by decide
/-- A length field of 0 is no frame (R60). -/
theorem test_table_word_length_zero : decodeTableWord 32 0xFEFE0000 = none := by decide
theorem test_placed_word_runs :
    view (step ((st .idle []).withFetchWord 32 0xFEFE0220)) = some (.done, [], 140, 67, .ok []) := by decide

/-- The first instruction after reset: the frame does not match the latch's 0x00 (log 3) and is removed. -/
theorem test_first_after_reset :
    field (fun s => (s.phase, s.buf)) (step (State.reset.withFetchWord 32 0xFEFE0220)) =
      some (.awaitDecode, []) := by decide

/-! ### DECODE (V rows) -/

theorem test_decode_incomplete :
    [[], [0xFE#8], [0x00#8], [0xFE#8, 0xFE#8], [0xFE#8, 0xFE#8, 0x02#8], [0xFE#8, 0xFE#8, 0x01#8],
      [0xFE#8, 0xFE#8, 0xFE#8, 0x02#8, 0x20#8, 0xFA#8], [0xFE#8, 0xFE#8, 0x04#8, 0x20#8, 0xFA#8, 0xFA#8]].map
      (decodeBytes .late) = List.replicate 8 .incomplete := by decide
theorem test_decode_invalid :
    [[0x00#8, 0x00#8], [0xFE#8, 0x00#8], [0x00#8, 0xFE#8], [0xFE#8, 0xFE#8, 0x02#8, 0x20#8, 0xFB#8],
      [0xFE#8, 0xFE#8, 0x00#8, 0xFA#8], [0xFE#8, 0xFE#8, 0x01#8, 0x20#8], [0xFE#8, 0xFE#8, 0x01#8, 0xFA#8]].map
      (decodeBytes .late) =
    [.invalid .badHeader, .invalid .badHeader, .invalid .badHeader, .invalid .badFooter, .invalid .badFooter,
      .invalid .badFooter, .invalid .lengthTooSmall] := by decide
/-- V14, V16, V17, early column. -/
theorem test_decode_early :
    [[0xFE#8, 0xFE#8, 0x00#8], [0xFE#8, 0xFE#8, 0x01#8], [0xFE#8, 0xFE#8, 0x01#8, 0x20#8]].map
      (decodeBytes .early) = List.replicate 3 (.invalid .lengthTooSmall) := by decide

/-! ### The codec and registry operations -/

theorem test_encode_E3 :
    field State.trace (exec (.encode 0x21#8 [0x07#8]) (st .awaitRead [0xFE#8])) =
      some [.hEncode 0x21#8 [0x07#8] otherFrame] := by decide
theorem test_encode_E9 : why (exec (.encode 0x20#8 (zeros 254)) (st .idle [])) = some .encodeOversize := by decide +kernel
/-- V13: trailing bytes are ignored. -/
theorem test_decode_V13 :
    field State.trace (exec (.decode (getAnglesFrame ++ [0x99#8, 0x98#8])) (st .idle [])) =
      some [.hDecode (getAnglesFrame ++ [0x99#8, 0x98#8]) (.complete { cmd := 0x20#8, payload := [] } 5)] := by decide
/-- P16: H.DECODE in any phase leaves the block alone. -/
theorem test_decode_pure :
    view (exec (.decode [0xFE#8, 0xFE#8, 0x01#8, 0xFA#8]) (st .awaitWait [0xFE#8])) =
      view (.next (st .awaitWait [0xFE#8])) := by decide
/-- U7: a hand-built `Unknown` of a known opcode cannot be presented. -/
theorem test_opcodeOf_U7 : why (exec (.opcodeOf (.unknown 0x20#8)) (st .idle [])) = some .unknownOfKnown := by decide
/-- G1, G3. -/
theorem test_opcodeOf :
    field State.trace (exec (.opcodeOf (.known .getAngles)) (st .idle [])) =
        some [.opcodeOf (.known .getAngles) 0x20#8] ∧
      field State.trace (exec (.opcodeOf (.unknown 0x7B#8)) (st .idle [])) =
        some [.opcodeOf (.unknown 0x7B#8) 0x7B#8] := by decide
/-- G2, G4. -/
theorem test_commandOf :
    field State.trace (exec (.commandOf 0x20#8) (st .idle [])) = some [.commandOf 0x20#8 (.known .getAngles)] ∧
      field State.trace (exec (.commandOf 0x7B#8) (st .idle [])) = some [.commandOf 0x7B#8 (.unknown 0x7B#8)] := by
  decide

/-! ### The micro-operations (M rows) -/

theorem test_M1_M26 :
    view (exec (.xeCall 0x20#8 (zeros 254) 100) (st .idle [])) = some (.done, [], 140, 67, .invalidParameter) ∧
      why (exec (.xeCall 0x20#8 [] 100) (st .awaitRead [])) = some .notReentrant := by decide +kernel
theorem test_M2 :
    view (exec (.xeCall 0x20#8 [] 100) (st .idle [] (env 40 [0] []))) = some (.sendWrite, [], 140, 67, .ok []) := by
  decide
theorem test_M4 :
    view (exec .xeWrite (st .sendWrite [])) = some (.sendFlush, [], 140, 67, .ok []) ∧
      field (fun s => s.env.tx) (exec .xeWrite (st .sendWrite [])) = some getAnglesFrame := by decide
theorem test_M5 :
    view (exec .xeWrite (st .sendWrite [] { env 0 [] [] with writes := [.fail ⟨1⟩ 2] })) =
      some (.done, [], 140, 67, .ioFailed ⟨1⟩) := by decide
theorem test_M6 : view (exec .xeFlush (st .sendFlush [])) = some (.sent, [], 140, 67, .ok []) := by decide
theorem test_M7 :
    view (exec .xeFlush (st .sendFlush [] { env 0 [] [] with flushes := [.fail ⟨2⟩] })) =
      some (.done, [], 140, 67, .ioFailed ⟨2⟩) := by decide
theorem test_M8 : view (exec .xeEnter (st .sent [])) = some (.awaitCheck, [], 140, 67, .ok []) := by decide
theorem test_M9 :
    view (exec .xeCheck (st .awaitCheck [] (env 139 [0] []))) = some (.awaitRead, [], 140, 67, .ok []) := by decide
theorem test_M10 :
    view (exec .xeCheck (st .awaitCheck [0xFE#8, 0xFE#8, 0x02#8, 0x20#8] (env 139 [1] []))) =
      some (.done, [], 140, 67, .timedOut) := by decide
theorem test_M11 :
    view (exec .xeRead (st .awaitRead [0xFE#8] (env 0 [] [.data [0xFE#8]]))) =
      some (.awaitDecode, [0xFE#8, 0xFE#8], 140, 67, .ok []) := by decide
theorem test_M12_M13 :
    view (exec .xeRead { st .awaitRead [0xFE#8] (env 57 [0] [.noData]) with waitUntil := 0 }) =
        some (.awaitWait, [0xFE#8], 140, 67, .ok []) ∧
      view (exec .xeRead { st .awaitRead [0xFE#8] (env 57 [0] [.eos]) with waitUntil := 0 }) =
        some (.awaitWait, [0xFE#8], 140, 67, .ok []) := by decide
theorem test_M15 :
    view (exec .xeWait (st .awaitWait [0xFE#8] (env 60 [6] []))) = some (.awaitWait, [0xFE#8], 140, 67, .ok []) := by
  decide
theorem test_M16 :
    view (exec .xeWait (st .awaitWait [0xFE#8] (env 60 [7] []))) = some (.awaitCheck, [0xFE#8], 140, 67, .ok []) := by
  decide
theorem test_M20 :
    view (exec .xeDecode (st .awaitDecode [0xFE#8, 0xFE#8, 0x02#8, 0x20#8, 0xFB#8])) =
      some (.awaitDecode, [0xFE#8, 0x02#8, 0x20#8, 0xFB#8], 140, 67, .ok []) := by decide
theorem test_M24 :
    view (exec .xeDecode
      (st .awaitDecode [0xFE#8, 0xFE#8, 0x04#8, 0x20#8, 0xAA#8, 0xBB#8, 0xFA#8, 0x99#8])) =
      some (.done, [], 140, 67, .ok [0xAA#8, 0xBB#8]) := by decide
/-- M22: the mismatch leaves an empty buffer in AwaitDecode (log 19). -/
theorem test_M22 :
    view (exec (.frame 0x21#8 [0x07#8]) (st .awaitDecode otherFrame)) =
        some (.awaitDecode, [], 140, 67, .ok []) ∧
      field State.rxBase (step (st .awaitDecode otherFrame)) = some 6 := by decide
/-- M23, first half, as the frame the step decodes. -/
theorem test_M23 :
    view (step (st .awaitDecode (otherFrame ++ getAnglesFrame))) =
      some (.awaitDecode, getAnglesFrame, 140, 67, .ok []) := by decide
theorem test_M21 :
    view (exec (.getAngles []) (st .awaitDecode getAnglesFrame)) = some (.done, [], 140, 67, .ok []) := by decide
theorem test_M25 :
    field (fun s => (s.phase, s.trace)) (exec .xeReturn (st .done [])) = some (.idle, [.hRet (.ok [])]) := by decide

/-! ### The transport -/

/-- P4 run a: some part of the frame is on the link. -/
theorem test_tWrite_prefix :
    field (fun s => s.env.tx)
      (exec (.tWrite getAnglesFrame) (st .sendWrite [] { env 0 [] [] with writes := [.fail ⟨1⟩ 2] })) =
      some [0xFE#8, 0xFE#8] := by decide
theorem test_tFlush : field State.trace (exec .tFlush (st .sendFlush [])) = some [.tFlush .ok] := by decide
/-- R123's example. -/
theorem test_tRead :
    field State.trace (exec (.tRead 1) (st .awaitRead [] (env 0 [] [.data [0xFE#8]]))) =
      some [.tRead 1 (.data [0xFE#8])] := by decide
/-- R6, R124: however much is asked for, more than `RD_MAX` bytes are no answer. -/
theorem test_tRead_outside :
    why (exec (.tRead 300) (st .awaitRead [] (env 0 [] [.data (zeros 17)]))) = some .answerOutsideTypes := by decide

/-! ### Whole calls -/

/-- P1 with one answer. -/
theorem test_P1 :
    view (exec (.sendAndAwait 0x20#8 [] 100)
      { st .idle [] (env 0 [0, 0] [.data ([0xFE#8, 0xFE#8, 0x0E#8, 0x20#8] ++ zeros 12 ++ [0xFA#8])]) with
        par := { par with rdMax := 17 } }) =
      some (.idle, [], 100, 67, .ok (zeros 12)) := by decide
/-- P3 run d, script `N*`: one read, a wait of 10, then the deadline has passed. -/
theorem test_P3 :
    view (exec (.sendAndAwait 0x20#8 [] 1)
      (st .idle [] { env 0 [0, 0, 0, 10, 0] [] with readsThen := some .noData })) =
      some (.idle, [], 1, 10, .timedOut) := by decide

/-! ### `scan` (S rows) -/

theorem test_scan :
    scan .late 0x20#8 ([0x01#8, 0x02#8] ++ getAnglesFrame) = .found [] ∧
      scan .late 0x20#8 otherFrame = .pending ∧
      scan .late 0x20#8 (otherFrame ++ [0xFE#8, 0xFE#8, 0x04#8, 0x20#8, 0xAA#8, 0xBB#8, 0xFA#8]) =
        .found [0xAA#8, 0xBB#8] := by decide

/-- R15, R138: the codes. -/
theorem test_codes :
    [Phase.idle, .sendWrite, .sendFlush, .sent, .awaitCheck, .awaitRead, .awaitWait, .awaitDecode, .done].map
      Phase.code = List.range 9 ∧
    [CallOutcome.ok [], .timedOut, .ioFailed ⟨0⟩, .invalidParameter].map CallOutcome.code = [0, 1, 2, 3] ∧
    [Reason.badHeader, .badFooter, .lengthTooSmall].map reasonCode = [0, 1, 2] := by decide

/-! ### Witnesses: for each statement with hypotheses, values that meet all of them, at the ends of the ranges -/

/-- The other end-of-stream policy, the other deadline origin, the other length check. -/
def otherPar : Params := { par with lenCheck := .early, eosPolicy := .asIoFailure, deadlineOrigin := .afterFlush }

theorem par_wf : par.wf := ⟨by decide, by decide, by decide, by decide, by decide⟩

theorem witness_EncodeBuildsTheFrame : (zeros 253).length ≤ 253 ∧ 253 < (zeros 254).length := by decide +kernel
theorem witness_DecodeFollowsTheDecisionTable : (st .idle []).par.lenCheck = .late := by decide
theorem witness_EarlyLengthCheckDiffersOnlyThere :
    otherPar.lenCheck = .early ∧
      (let b : Bytes := [0xFE#8, 0xFE#8, 0x01#8]
      3 ≤ b.length ∧ b.take 2 = [0xFE#8, 0xFE#8] ∧ (b.getD 2 0#8).toNat < 2) ∧
      (let b : Bytes := [0xFE#8, 0xFE#8, 0x02#8]
      ¬(3 ≤ b.length ∧ b.take 2 = [0xFE#8, 0xFE#8] ∧ (b.getD 2 0#8).toNat < 2)) := by decide
/-- The smallest examples of R59's table. -/
theorem witness_IllegalEncodingsAreThree :
    decodeBytes .late [0x00#8, 0x00#8] = .invalid .badHeader ∧
      decodeBytes .late [0xFE#8, 0xFE#8, 0x00#8] = .invalid .badFooter ∧
      decodeBytes .late [0xFE#8, 0xFE#8, 0x01#8, 0xFA#8] = .invalid .lengthTooSmall := by decide
/-- One row of the decision table each, R80's three cases among them (V25 to V27 at the upper end). -/
theorem witness_VerdictsAreCharacterised :
    decodeBytes .late (encodePacket 0x20#8 (zeros 253)) =
        .complete { cmd := 0x20#8, payload := zeros 253 } 258 ∧
      decodeBytes .late ((encodePacket 0x20#8 (zeros 253)).take 257) = .incomplete ∧
      decodeBytes .late ((encodePacket 0x20#8 (zeros 253)).take 257 ++ [0x00#8]) = .invalid .badFooter := by
  decide +kernel
theorem witness_ReservedLengthsAreRejected : (0x00#8 : Byte) ≠ 0xFA#8 ∧ (zeros 0).length ≤ 253 := by decide
theorem witness_VerdictsAreStable :
    decodeBytes .late getAnglesFrame ≠ .incomplete ∧ decodeBytes .early [0xFE#8, 0xFE#8, 0x01#8] ≠ .incomplete := by
  decide
theorem witness_PacketRoundTrip :
    (zeros 253).length ≤ 253 ∧ encodePacket 0xFE#8 (zeros 253) = encodePacket 0xFE#8 (zeros 253) := by decide +kernel
theorem witness_CutFramesAreIncomplete :
    (zeros 253).length ≤ 253 ∧ 257 < (encodePacket 0x20#8 (zeros 253)).length := by decide +kernel
theorem witness_ConcatenatedFramesDecodeInTurn :
    (Packet.mk 0x20#8 (zeros 253)).payload.length ≤ 253 ∧ (Packet.mk 0x21#8 []).payload.length ≤ 253 := by
  decide +kernel
theorem witness_BadHeaderAndBadFooterAreInvalid : (zeros 253).length ≤ 253 ∧ (0xFB#8 : Byte) ≠ 0xFA#8 := by
  decide +kernel
theorem witness_InstrRoundTrip :
    (Instr.frame 0xFF#8 (zeros 253)).wellFormed = true ∧
      encodeInstr (.frame 0xFF#8 (zeros 253)) = some (encodePacket 0xFF#8 (zeros 253)) ∧
      (Instr.getAngles []).wellFormed = true ∧ encodeInstr (.getAngles []) = some getAnglesFrame := by decide +kernel
theorem witness_DecodedInstrReencodes :
    decodeInstrRest .late (getAnglesFrame ++ [0x99#8]) = some (.getAngles [], [0x99#8]) := by decide
theorem witness_CodecOperationsArePure :
    (st .awaitRead []).par = (st .idle []).par ∧
      view (exec (.encode 0x20#8 []) (st .idle [])) ≠ none ∧ view (exec (.decode []) (st .idle [])) ≠ none ∧
      view (exec (.opcodeOf (.unknown 0#8)) (st .idle [])) ≠ none ∧
      view (exec (.commandOf 0#8) (st .idle [])) ≠ none := by decide
theorem witness_CommandOfReadsTheTable : (st .idle []).par.wf := par_wf
theorem witness_OpcodeOfReadsTheTable :
    (st .idle []).par.wf ∧ (CommandName.getAngles, (0x20#8 : Byte)) ∈ (st .idle []).par.known ∧
      (∀ name, (name, (0x7B#8 : Byte)) ∉ (st .idle []).par.known) ∧
      exec (.commandOf 0x7B#8) (st .idle []) =
        .next { st .idle [] with trace := .commandOf 0x7B#8 (.unknown 0x7B#8) :: (st .idle []).trace } :=
  ⟨par_wf, by decide, by simp [st, par], rfl⟩
theorem witness_CallRejectsLongPayloads :
    (st .idle []).phase = .idle ∧ 253 < (zeros 254).length ∧ (st .done []).phase ≠ .idle := by decide +kernel
theorem witness_CallLatchesTheRequest :
    (st .idle []).phase = .idle ∧ (zeros 253).length ≤ 253 ∧ (st .idle []).par.deadlineOrigin = .beforeWrite := by
  decide +kernel
theorem witness_DeadlineMayStartAfterTheFlush :
    (let s := { st .idle [] with par := otherPar }
    s.phase = .idle ∧ (zeros 253).length ≤ 253 ∧ s.par.deadlineOrigin = .afterFlush) ∧
      (let s := { st .sendFlush [] with par := otherPar }
      s.phase = .sendFlush ∧ s.env.mute = false ∧ s.env.flushAnswer = .ok ∧
        s.par.deadlineOrigin = .afterFlush) := by decide +kernel
theorem witness_WriteSendsTheFrameOnce :
    (let s := { st .sendWrite [] with reqPayload := zeros 253 }
    s.phase = .sendWrite ∧ s.reqPayload.length ≤ 253 ∧ s.env.mute = false ∧ s.env.writeAnswer = .ok) ∧
      (let s := st .sendWrite [] { env 0 [] [] with writes := [.fail ⟨1⟩ 5] }
      s.phase = .sendWrite ∧ s.reqPayload.length ≤ 253 ∧ s.env.mute = false ∧
        s.env.writeAnswer = .fail ⟨1⟩ 5) := by decide +kernel
theorem witness_FlushFollowsTheWrite :
    (let s := st .sendFlush []
    s.phase = .sendFlush ∧ s.env.mute = false ∧ s.env.flushAnswer = .ok ∧
      s.par.deadlineOrigin = .beforeWrite) ∧
      (let s := st .sendFlush [] { env 0 [] [] with flushes := [.fail ⟨2⟩] }
      s.phase = .sendFlush ∧ s.env.mute = false ∧ s.env.flushAnswer = .fail ⟨2⟩) := by decide
theorem witness_EnterStartsTheReadLoop : (st .sent []).phase = .sent := by decide
/-- R96's example: at 140 exactly the call times out, at 139 it reads. -/
theorem witness_CheckTestsTheDeadline :
    (let s := st .awaitCheck [] (env 140 [0] [])
    s.phase = .awaitCheck ∧ s.deadline ≤ s.env.nextNow) ∧
      (let s := st .awaitCheck [] (env 139 [0] [])
      s.phase = .awaitCheck ∧ s.env.nextNow < s.deadline) := by decide
theorem witness_ReadReactsToTheAnswer :
    (let s := st .awaitRead [] (env 0 [] [.data (zeros 16)])
    s.phase = .awaitRead ∧ s.env.mute = false ∧ s.env.readAnswer s.par.rdMax = .data (zeros 16) ∧
      1 ≤ (zeros 16).length ∧ (zeros 16).length ≤ s.par.rdMax) ∧
      (let s := st .awaitRead [] (env 0 [] [.eos])
      s.phase = .awaitRead ∧ s.env.mute = false ∧ s.par.eosPolicy = .asNoData ∧
        s.env.readAnswer s.par.rdMax = .eos) ∧
      (let s := st .awaitRead [] (env 0 [] [.noData])
      s.phase = .awaitRead ∧ s.env.mute = false ∧ s.env.readAnswer s.par.rdMax = .noData) ∧
      (let s := st .awaitRead [] (env 0 [] [.fatal ⟨3⟩])
      s.phase = .awaitRead ∧ s.env.mute = false ∧ s.env.readAnswer s.par.rdMax = .fatal ⟨3⟩) := by decide
theorem witness_EosMayEndTheCall :
    let s := { st .awaitRead [] (env 0 [] [.eos]) with par := otherPar }
    s.phase = .awaitRead ∧ s.env.mute = false ∧ s.par.eosPolicy = .asIoFailure ∧
      s.env.readAnswer s.par.rdMax = .eos := by decide
/-- M15, M16: at 67 exactly the wait is over, at 66 it is not. -/
theorem witness_WaitIsHeldUntilItsEnd :
    (let s := st .awaitWait [] (env 60 [7] [])
    s.phase = .awaitWait ∧ s.waitUntil ≤ s.env.nextNow) ∧
      (let s := st .awaitWait [] (env 60 [6] [])
      s.phase = .awaitWait ∧ s.env.nextNow < s.waitUntil) := by decide
theorem witness_InvalidDropsOneByte :
    let s := st .awaitDecode [0x01#8, 0x02#8]
    s.phase = .awaitDecode ∧ decodeBytes s.par.lenCheck s.buf = .invalid .badHeader := by decide
theorem witness_IncompleteReadsOn :
    let s := st .awaitDecode [0xFE#8, 0xFE#8]
    s.phase = .awaitDecode ∧ decodeBytes s.par.lenCheck s.buf = .incomplete := by decide
theorem witness_MatchEndsTheCall :
    let s := st .awaitDecode (encodePacket 0x20#8 (zeros 253) ++ [0x99#8])
    s.phase = .awaitDecode ∧ (zeros 253).length ≤ 253 ∧
      s.buf = encodePacket s.reqCmd (zeros 253) ++ [0x99#8] := by decide +kernel
theorem witness_MismatchIsRemoved :
    let s := st .awaitDecode (encodePacket 0x21#8 (zeros 253))
    s.phase = .awaitDecode ∧ (zeros 253).length ≤ 253 ∧ (0x21#8 : Byte) ≠ s.reqCmd ∧
      s.buf = encodePacket 0x21#8 (zeros 253) ++ [] := by decide +kernel
theorem witness_ReturnHandsOverTheResult : (st .done []).phase = .done := by decide
theorem witness_OneMicroOperationIsEnabled :
    Instr.xeRead ∈ [Instr.xeWrite, .xeFlush, .xeEnter, .xeCheck, .xeRead, .xeWait, .xeDecode, .xeReturn] := by decide
theorem witness_NoSecondCall : (st .done []).phase ≠ .idle := by decide
theorem witness_FramesAreReceived :
    (let s := st .awaitDecode getAnglesFrame
    s.phase = .awaitDecode ∧ s.buf = encodePacket 0x20#8 [] ++ [] ∧ (0x20#8 : Byte) = s.reqCmd) ∧
      (let s := st .awaitDecode otherFrame
      s.phase = .awaitDecode ∧ s.buf = encodePacket 0x21#8 [0x07#8] ++ [] ∧ (0x21#8 : Byte) ≠ s.reqCmd) := by decide
theorem witness_FrameAgreesWithDecode :
    (let s := st .awaitDecode getAnglesFrame
    s.phase = .awaitDecode ∧
      decodeBytes s.par.lenCheck s.buf = .complete { cmd := 0x20#8, payload := [] } 5) ∧
      (let s := st .awaitDecode []
      s.phase = .awaitDecode ∧ decodeBytes s.par.lenCheck s.buf = .incomplete) := by decide
theorem witness_TransportWriteAcceptsBytes :
    (let s := st .sendWrite []
    s.phase = .sendWrite ∧ s.env.mute = false ∧ s.env.writeAnswer = .ok) ∧
      (env 0 [] []).mute = false ∧ { env 0 [] [] with writes := [.fail ⟨1⟩ 0] }.writeAnswer = .fail ⟨1⟩ 0 := by decide
theorem witness_TransportFlushTouchesNoStream :
    (st .sendFlush []).phase = .sendFlush ∧ (st .sendFlush []).env.mute = false := by decide
theorem witness_TransportReadIsDestructive :
    (let s := st .awaitRead [] (env 0 [] [.data (zeros 16)])
    s.phase = .awaitRead ∧ s.env.mute = false ∧ 16 = min 300 s.par.rdMax ∧
      answerInTypes 16 (s.env.readAnswer 16) = true ∧ s.env.reads = .data (zeros 16) :: []) ∧
      (let s := st .awaitRead [] { env 0 [] [] with readsThen := some .noData }
      s.phase = .awaitRead ∧ s.env.mute = false ∧ s.env.reads = [] ∧ s.env.readsThen = some .noData) ∧
      (let s := st .awaitRead []
      s.phase = .awaitRead ∧ s.env.mute = false ∧ 1 = min 1 s.par.rdMax ∧ s.env.reads = [] ∧
        s.env.readsThen = none) := by decide
theorem witness_BrokenTransportsStopTheMachine :
    (let s := st .awaitRead [] (env 0 [] [.data []])
    s.phase = .awaitRead ∧ s.env.mute = false ∧ ([] : Bytes).length = 0 ∧
      s.env.readAnswer (min 16 s.par.rdMax) = .data [] ∧ 16 = s.par.rdMax) ∧
      (let s := st .awaitRead [] (env 0 [] [.data (zeros 17)])
      s.phase = .awaitRead ∧ s.env.mute = false ∧ min 16 s.par.rdMax < (zeros 17).length ∧
        s.env.readAnswer (min 16 s.par.rdMax) = .data (zeros 17) ∧ 16 = s.par.rdMax) ∧
      (let e := { env 0 [] [] with mute := true }
      e.mute = true ∧ stuck (exec .xeWrite (st .sendWrite [] e)) = true ∧
        stuck (exec .xeFlush (st .sendFlush [] e)) = true ∧ stuck (exec .xeRead (st .awaitRead [] e)) = true ∧
        stuck (exec (.tWrite []) (st .sendWrite [] e)) = true ∧ stuck (exec .tFlush (st .sendFlush [] e)) = true ∧
        stuck (exec (.tRead 1) (st .awaitRead [] e)) = true) := by decide
theorem witness_TransportBelongsToTheEngine :
    (st .idle []).phase ≠ .sendWrite ∧ (st .idle []).phase ≠ .sendFlush ∧ (st .idle []).phase ≠ .awaitRead := by
  decide
theorem witness_SendRejectsLongPayloads : (st .idle []).phase = .idle ∧ 253 < (zeros 254).length := by decide +kernel
theorem witness_SendReturnsTheResponse :
    let s := st .idle [] (env 40 [0, 99] [.data (encodePacket 0x20#8 [0x05#8] ++ [0x99#8])])
    s.phase = .idle ∧ s.par.deadlineOrigin = .beforeWrite ∧ s.env.mute = false ∧ s.env.writes = .ok :: [] ∧
      s.env.flushes = .ok :: [] ∧ s.env.reads = .data (encodePacket 0x20#8 [0x05#8] ++ [0x99#8]) :: [] ∧
      (encodePacket 0x20#8 [0x05#8] ++ [0x99#8]).length ≤ s.par.rdMax ∧ s.env.advances = 0 :: 99 :: [] ∧
      99 < 100 := by decide
/-- P3 run c: a timeout of 0. -/
theorem witness_SendTimesOutBeforeReading :
    let s := st .idle [] (env 0 [0, 0] [])
    s.phase = .idle ∧ ([] : Bytes).length ≤ 253 ∧ s.par.deadlineOrigin = .beforeWrite ∧ s.env.mute = false ∧
      s.env.writes = .ok :: [] ∧ s.env.flushes = .ok :: [] ∧ s.env.advances = 0 :: 0 :: [] ∧ 0 ≤ 0 := by decide
/-- P4 runs a and b. -/
theorem witness_SendFailsWithTheTransport :
    (let s := st .idle [] { env 0 [0] [] with writes := [.fail ⟨1⟩ 2] }
    s.phase = .idle ∧ ([] : Bytes).length ≤ 253 ∧ s.par.deadlineOrigin = .beforeWrite ∧ s.env.mute = false ∧
      s.env.advances = 0 :: [] ∧ s.env.writes = .fail ⟨1⟩ 2 :: []) ∧
      (let s := st .idle [] { env 0 [0] [] with flushes := [.fail ⟨2⟩] }
      s.phase = .idle ∧ ([] : Bytes).length ≤ 253 ∧ s.par.deadlineOrigin = .beforeWrite ∧ s.env.mute = false ∧
        s.env.advances = 0 :: [] ∧ s.env.writes = .ok :: [] ∧ s.env.flushes = .fail ⟨2⟩ :: []) := by decide
/-- A call that times out at its first check: it is back in Idle after five micro-operations. -/
theorem witness_ReferenceProgramIsTheMicroOperations :
    (st .idle []).phase = .idle ∧
      ∃ u, exec (.xeCall 0x20#8 [] 0) (st .idle []) = .next u ∧ field State.phase (runCall 5 u) = some .idle :=
  ⟨rfl, _, rfl, by decide⟩
theorem witness_DecodeLoopEnds : (st .awaitDecode []).phase = .awaitDecode := by decide
/-- A call whose deadline has been reached: it runs to Idle in two micro-operations. -/
theorem witness_EveryFairCallEnds : (st .awaitCheck [] (env 140 [0] [])).Fair :=
  let back : State :=
    { st .idle [] (env 140 [] []) with result := .timedOut, trace := [.hRet .timedOut, .clk 140] }
  have run : ∀ n, runCall (n + 2) (st .awaitCheck [] (env 140 [0] [])) = .next back := fun n => by cases n <;> rfl
  { answers := by
      rintro (_ | _ | n) f h
      · cases h
      · cases h
      · rw [run] at h; cases h
    typed := by
      rintro (_ | _ | n) f h
      · cases h
      · cases h
      · rw [run] at h; cases h
    clock := fun _ => ⟨2, back, run 0, .inl rfl⟩ }
/-- X6. -/
theorem witness_ResyncRecoversTheFrame :
    let s := st .awaitDecode ([0x01#8, 0x02#8] ++ getAnglesFrame)
    s.phase = .awaitDecode ∧ ([] : Bytes).length ≤ 253 ∧ s.buf = [0x01#8, 0x02#8] ++ encodePacket 0x20#8 [] := by
  decide
/-- S4, S9 and S3. -/
theorem witness_ScanIsMonotoneAndSkipsMismatches :
    scan .late 0x20#8 getAnglesFrame = .found [] ∧ (0x21#8 : Byte) ≠ 0x20#8 ∧
      decodeBytes .late [0x01#8, 0x02#8] = .invalid .badHeader := by decide
/-- Between calls; in mid-call (R162); and in Done, where the refusal is the model's (log 26). -/
theorem witness_ResetIsBetweenCalls :
    (st .idle []).phase = .idle ∧ (st .awaitRead [0xFE#8]).phase ≠ .idle ∧ (st .done []).phase ≠ .idle := by decide
/-- A state in mid-call that keeps the invariants, and its next step. -/
theorem witness_StepKeepsTheInvariants :
    let sent : List Transaction := [.tFlush .ok, .tWrite getAnglesFrame .ok]
    { st .awaitDecode [0xFE#8] with trace := sent }.Inv ∧
      step { st .awaitDecode [0xFE#8] with trace := sent } =
        .next { st .awaitCheck [0xFE#8] with trace := sent } :=
  ⟨{ params := par_wf
     empty := by decide
     waiting := by decide
     decoding := by decide
     bounded := by decide
     request := by decide
     response := by intro p h; exact absurd h (by decide)
     rejected := by decide
     ghosts := by decide
     order := ⟨0, by decide⟩
     timed := by decide }, rfl⟩
theorem witness_StepKeepsTheScan :
    (st .awaitDecode [0xFE#8]).Scanned ∧ step (st .awaitDecode [0xFE#8]) = .next (st .awaitCheck [0xFE#8]) :=
  ⟨{ running := fun _ _ => rfl
     found := by intro p h; exact absurd h (by decide) }, rfl⟩
theorem witness_StepRunsTheNextInstruction :
    (let s := st .awaitDecode getAnglesFrame
    hostReady s = false ∧ s.phase = .awaitDecode ∧ decodeInstr s.par.lenCheck s.buf = some (.getAngles [])) ∧
      (let s := st .awaitDecode [0xFE#8]
      hostReady s = false ∧ s.phase.microOp = some .xeDecode ∧ decodeInstr s.par.lenCheck s.buf = none) ∧
      (let s := { st .idle [] with program := [.call 0x20#8 [] 100] }
      s.program = .call 0x20#8 [] 100 :: [] ∧ s.phase = .idle) ∧
      (let s := { st .awaitRead [] with program := [.decode []] }
      s.program = .decode [] :: [] ∧ hostOpAnyPhase (.decode []) = true) ∧
      (st .idle []).phase = .idle ∧ (st .idle []).program = [] := by decide
theorem witness_PlacedWordIsTheNextInstruction :
    decodeTableWord 32 0xFEFE0220 = some (.getAngles []) ∧ (st .idle []).par.lenCheck = .late := by decide
theorem witness_ClockAndParametersAreTheEnvironments :
    step (st .awaitDecode [0xFE#8]) = .next (st .awaitCheck [0xFE#8]) := rfl
theorem witness_BufferChangesThreeWays :
    (∀ c p k, Instr.xeDecode ≠ .sendAndAwait c p k) ∧
      exec .xeDecode (st .awaitDecode [0xFE#8]) = .next (st .awaitCheck [0xFE#8]) :=
  ⟨(by intro c p k h; cases h), rfl⟩
theorem witness_StreamsAreTouchedByTheirOperationsOnly :
    (∀ c p k, Instr.xeDecode ≠ .sendAndAwait c p k) ∧ (∀ max, Instr.xeDecode ≠ .tRead max) ∧
      (∀ bs, Instr.xeDecode ≠ .tWrite bs) ∧ (∀ c p k, Instr.xeDecode ≠ .xeCall c p k) ∧ Instr.xeDecode ≠ .xeRead ∧ Instr.xeDecode ≠ .xeWrite ∧
      exec .xeDecode (st .awaitDecode [0xFE#8]) = .next (st .awaitCheck [0xFE#8]) :=
  ⟨(by intro c p k h; cases h), (by intro m h; cases h), (by intro b h; cases h), (by intro c p k h; cases h), by decide,
    by decide, rfl⟩
theorem witness_StaleLatchesNeverMatter :
    view (exec (.sendAndAwait 0x20#8 [] 0) (st .idle [] (env 0 [0, 0] []))) = some (.idle, [], 0, 67, .timedOut) := by
  decide

end Sys2Proof.Tests
end

/-! ### O57: the clock never runs back and the parameters stay (00_scope.md R5, R7) -/

namespace Sys2Proof.Machine

variable {s t u : State}

/-- `t` can come after `s`: its clock is not earlier (R7) and it has the same parameters (R5). -/
def State.Follows (t s : State) : Prop := s.env.now ≤ t.env.now ∧ t.par = s.par

theorem State.follows_of_env_par (henv : t.env = s.env) (hpar : t.par = s.par) : t.Follows s :=
  ⟨by rw [henv], hpar⟩

theorem State.Follows.trans (hut : u.Follows t) (hts : t.Follows s) : u.Follows s :=
  ⟨hts.1.trans hut.1, hut.2.trans hts.2⟩

/-! #### The operations -/

theorem State.look_follows (s : State) : s.look.Follows s :=
  ⟨by simpa using s.env.now_le_nextNow, rfl⟩

theorem State.issueWrite_follows (s : State) (bs : Bytes) : (s.issueWrite bs).Follows s :=
  ⟨by simp, rfl⟩

theorem State.issueFlush_follows (s : State) : s.issueFlush.Follows s :=
  ⟨by simp, rfl⟩

theorem State.issueRead_follows (s : State) (max : Nat) : (s.issueRead max).Follows s :=
  ⟨by simp, rfl⟩

theorem State.acceptCall_follows (s : State) (cmd : Byte) (payload : Bytes) (timeout : Time) :
    (s.acceptCall cmd payload timeout).Follows s := by
  obtain ⟨-, henv⟩ | ⟨-, henv⟩ := s.acceptCall_trace_env cmd payload timeout
  · exact .trans (State.follows_of_env_par henv (by simp)) s.look_follows
  · exact State.follows_of_env_par henv (by simp)

theorem State.requestSent_follows (s : State) : s.requestSent.Follows s := by
  obtain ⟨-, henv⟩ | ⟨-, henv⟩ := s.requestSent_trace_env
  · exact .trans (State.follows_of_env_par henv (by simp)) s.look_follows
  · exact State.follows_of_env_par henv (by simp)

theorem State.armWait_follows (s : State) : s.armWait.Follows s := s.look_follows

theorem State.endOfStream_follows (s : State) : s.endOfStream.Follows s := by
  obtain h | ⟨e, h⟩ := s.endOfStream_cases <;> rw [h]
  · exact s.armWait_follows
  · exact ⟨le_rfl, rfl⟩

/-! #### The micro-operations -/

theorem execXeCall_follows {cmd : Byte} {payload : Bytes} {timeout : Time}
    (h : execXeCall cmd payload timeout s = .next t) : t.Follows s := by
  obtain ⟨-, ⟨-, rfl⟩ | ⟨-, rfl⟩⟩ := execXeCall_next h
  · exact (s.record _).acceptCall_follows cmd payload timeout
  · exact State.follows_of_env_par rfl rfl

theorem execXeWrite_follows (h : execXeWrite s = .next t) : t.Follows s := by
  obtain ⟨-, -, -, ⟨-, rfl⟩ | ⟨_, _, -, rfl⟩⟩ := execXeWrite_next h
  all_goals exact s.issueWrite_follows _

theorem execXeFlush_follows (h : execXeFlush s = .next t) : t.Follows s := by
  obtain ⟨-, -, ⟨-, rfl⟩ | ⟨_, -, rfl⟩⟩ := execXeFlush_next h
  · exact s.issueFlush.requestSent_follows.trans s.issueFlush_follows
  · exact s.issueFlush_follows

theorem execXeEnter_follows (h : execXeEnter s = .next t) : t.Follows s := by
  obtain ⟨-, rfl⟩ := execXeEnter_next h
  exact State.follows_of_env_par rfl rfl

theorem execXeCheck_follows (h : execXeCheck s = .next t) : t.Follows s := by
  obtain ⟨-, ⟨-, rfl⟩ | ⟨-, rfl⟩⟩ := execXeCheck_next h
  all_goals exact s.look_follows

theorem execXeRead_follows (h : execXeRead s = .next t) : t.Follows s := by
  have hread := s.issueRead_follows s.par.rdMax
  obtain ⟨-, -, ⟨_, -, -, -, rfl⟩ | ⟨-, rfl⟩ | ⟨-, rfl⟩ | ⟨_, -, rfl⟩⟩ := execXeRead_next h
  · exact hread
  · exact (State.armWait_follows _).trans hread
  · exact (State.endOfStream_follows _).trans hread
  · exact hread

theorem execXeWait_follows (h : execXeWait s = .next t) : t.Follows s := by
  obtain ⟨-, ⟨-, rfl⟩ | ⟨-, rfl⟩⟩ := execXeWait_next h
  all_goals exact s.look_follows

theorem execXeDecode_follows (h : execXeDecode s = .next t) : t.Follows s := by
  obtain ⟨-, ⟨-, rfl⟩ | ⟨_, -, rfl⟩ | ⟨_, _, -, rfl⟩⟩ := execXeDecode_next h
  all_goals exact State.follows_of_env_par (by simp) (by simp)

theorem execXeReturn_follows (h : execXeReturn s = .next t) : t.Follows s := by
  obtain ⟨-, rfl⟩ := execXeReturn_next h
  exact State.follows_of_env_par rfl rfl

theorem microStep_follows (h : microStep s = .next t) : t.Follows s := by
  unfold microStep at h
  split at h
  · cases h; exact State.follows_of_env_par rfl rfl
  · exact execXeWrite_follows h
  · exact execXeFlush_follows h
  · exact execXeEnter_follows h
  · exact execXeCheck_follows h
  · exact execXeRead_follows h
  · exact execXeWait_follows h
  · exact execXeDecode_follows h
  · exact execXeReturn_follows h

/-! #### The step -/

/-- Every step, a host operation and a whole call included, leads to a state that follows the one it began in. -/
theorem step_follows (h : step s = .next t) : t.Follows s :=
  step_induct (P := fun u => u.Follows s) (fun _ _ hu => hu) (fun _ _ hu _ _ => hu)
    (fun _ _ _ _ _ hu hcall => (execXeCall_follows hcall).trans hu)
    (fun _ _ hu hmicro => (microStep_follows hmicro).trans hu) (State.follows_of_env_par rfl rfl) h

/-- Settles O57: only a look moves the clock, and forward; nothing writes the parameters. -/
theorem clockAndParametersAreTheEnvironments : Obligations.ClockAndParametersAreTheEnvironments :=
  fun _ _ => step_follows

end Sys2Proof.Machine

/-! ### O53: every step keeps the invariants (10_state.md R21, R28; 20_memory.md R42; 41_exchange_engine.md R110) -/

namespace Sys2Proof.Machine

variable {s t : State}

/-! #### The transport operations a call has issued (R42) -/

@[simp] theorem callOps_hCall (c : Byte) (p : Bytes) (k : Time) (ts : List Transaction) :
    callOps (.hCall c p k :: ts) = [] := rfl

@[simp] theorem callOps_tWrite (bs : Bytes) (a : WriteAnswer) (ts : List Transaction) :
    callOps (.tWrite bs a :: ts) = .write :: callOps ts := rfl

@[simp] theorem callOps_tFlush (a : FlushAnswer) (ts : List Transaction) :
    callOps (.tFlush a :: ts) = .flush :: callOps ts := rfl

@[simp] theorem callOps_tRead (max : Nat) (a : ReadAnswer) (ts : List Transaction) :
    callOps (.tRead max a :: ts) = .read :: callOps ts := rfl

@[simp] theorem callOps_clk (now : Time) (ts : List Transaction) : callOps (.clk now :: ts) = callOps ts := rfl

theorem callOps_of_transportOp_none {tr : Transaction} (ts : List Transaction) (hnone : transportOp tr = none)
    (hcall : ∀ c p k, tr ≠ .hCall c p k) : callOps (tr :: ts) = callOps ts := by
  cases tr with
  | hCall c p k => exact absurd rfl (hcall c p k)
  | tWrite => cases hnone
  | tFlush => cases hnone
  | tRead => cases hnone
  | _ => rfl

@[simp] theorem State.callOps_acceptCall (s : State) (c : Byte) (p : Bytes) (k : Time) :
    callOps (s.acceptCall c p k).trace = callOps s.trace := by
  obtain ⟨h, -⟩ | ⟨h, -⟩ := s.acceptCall_trace_env c p k <;> simp [h]

@[simp] theorem State.callOps_requestSent (s : State) : callOps s.requestSent.trace = callOps s.trace := by
  obtain ⟨h, -⟩ | ⟨h, -⟩ := s.requestSent_trace_env <;> simp [h]

/-- R42: in the read loop one more T.READ keeps the order. -/
theorem opsOfPhase_read {ops : List TransportOp} (h : opsOfPhase .awaitCheck ops) :
    opsOfPhase .awaitCheck (.read :: ops) := by
  obtain ⟨n, rfl⟩ := h
  exact ⟨n + 1, rfl⟩

/-! #### The invariant, phase by phase -/

/-- What Inv asks of a call in progress whatever its phase: R5, R28 item 4, and R21's account of the ghosts. -/
def State.Account (s : State) : Prop :=
  s.par.wf ∧ s.reqPayload.length ≤ 253 ∧ s.rxSeen = s.rx.length ∧ s.rxBase ≤ s.rxSeen ∧ s.buf = s.rx.drop s.rxBase

theorem State.Inv.account (hs : s.Inv) (hcall : s.phase.inCall = true) : s.Account :=
  ⟨hs.params, hs.request hcall, hs.ghosts hcall⟩

/-- R42: the four phases of the read loop have the same order. -/
theorem State.Inv.readLoop_order (hs : s.Inv) (hloop : s.phase.bufEmpty = false) :
    opsOfPhase .awaitCheck (callOps s.trace) := by
  have horder := hs.order
  cases hp : s.phase <;> rw [hp] at horder hloop
  case awaitCheck | awaitRead | awaitWait | awaitDecode => exact horder
  all_goals cases hloop

/-- R37, R97: delivered bytes join the buffer and the account alike. -/
theorem State.Account.bufAppend (hs : s.Account) (bs : Bytes) : (s.bufAppend bs).Account := by
  obtain ⟨hpar, hreq, hseen, hbase, hbuf⟩ := hs
  refine ⟨hpar, hreq, by simp [hseen], ?_, ?_⟩
  · exact hbase.trans (Nat.le_add_right _ _)
  · rw [State.bufAppend_buf, State.bufAppend_rx, State.bufAppend_rxBase, hbuf,
      List.drop_append_of_le_length (hseen ▸ hbase)]

/-- R37, R100, R101: bytes the buffer holds may be dropped from its front. -/
theorem State.Account.bufDrop (hs : s.Account) {n : Nat} (hn : n ≤ s.buf.length) : (s.bufDrop n).Account := by
  obtain ⟨hpar, hreq, hseen, hbase, hbuf⟩ := hs
  refine ⟨hpar, hreq, hseen, ?_, ?_⟩
  · rw [hbuf, List.length_drop] at hn
    simp only [State.bufDrop_rxBase, State.bufDrop_rxSeen]
    omega
  · simp [hbuf, List.drop_drop]

/-- Inv in the three phases of the send. -/
theorem State.Account.inv_of_sending (h : t.Account)
    (hphase : t.phase = .sendWrite ∨ t.phase = .sendFlush ∨ t.phase = .sent) (hbuf : t.buf = [])
    (horder : opsOfPhase t.phase (callOps t.trace)) : t.Inv := by
  obtain ⟨hpar, hreq, hghosts⟩ := h
  have hdone : t.phase ≠ .done := by rcases hphase with hp | hp | hp <;> simp [hp]
  exact
    { params := hpar
      empty := fun _ => hbuf
      waiting := by rcases hphase with hp | hp | hp <;> simp [hp, Phase.wantsBytes]
      decoding := by rcases hphase with hp | hp | hp <;> simp [hp]
      bounded := by simp [hbuf]
      request := fun _ => hreq
      response := fun _ hp => absurd hp hdone
      rejected := fun hp => absurd hp hdone
      ghosts := fun _ => hghosts
      order := horder
      timed := fun hp => absurd hp hdone }

/-- Inv in the three phases that wait for bytes. -/
theorem State.Account.inv_of_waiting (h : t.Account)
    (hphase : t.phase = .awaitCheck ∨ t.phase = .awaitRead ∨ t.phase = .awaitWait)
    (hverdict : t.verdict = .incomplete) (horder : opsOfPhase .awaitCheck (callOps t.trace)) : t.Inv := by
  obtain ⟨hpar, hreq, hghosts⟩ := h
  have hdone : t.phase ≠ .done := by rcases hphase with hp | hp | hp <;> simp [hp]
  have hlen : t.buf.length ≤ 257 := decodeBytes_incomplete_length hverdict
  exact
    { params := hpar
      empty := by rcases hphase with hp | hp | hp <;> simp [hp, Phase.bufEmpty]
      waiting := fun _ => ⟨hverdict, hlen⟩
      decoding := by rcases hphase with hp | hp | hp <;> simp [hp]
      bounded := hlen.trans (Nat.le_add_right _ _)
      request := fun _ => hreq
      response := fun _ hp => absurd hp hdone
      rejected := fun hp => absurd hp hdone
      ghosts := fun _ => hghosts
      order := by rcases hphase with hp | hp | hp <;> rw [hp] <;> exact horder
      timed := fun hp => absurd hp hdone }

/-- Inv where the buffer is about to be decoded. -/
theorem State.Account.inv_of_decoding (h : t.Account) (hphase : t.phase = .awaitDecode)
    (hdecoding : 1 ≤ t.buf.length ∨ 5 ≤ t.rxBase) (hbounded : t.buf.length ≤ 257 + t.par.rdMax)
    (horder : opsOfPhase .awaitCheck (callOps t.trace)) : t.Inv := by
  obtain ⟨hpar, hreq, hghosts⟩ := h
  exact
    { params := hpar
      empty := by simp [hphase, Phase.bufEmpty]
      waiting := by simp [hphase, Phase.wantsBytes]
      decoding := fun _ => hdecoding
      bounded := hbounded
      request := fun _ => hreq
      response := by simp [hphase]
      rejected := by simp [hphase]
      ghosts := fun _ => hghosts
      order := by rw [hphase]; exact horder
      timed := by simp [hphase] }

/-- Inv where the call has ended and its result is not yet taken. -/
theorem State.inv_of_done (hphase : t.phase = .done) (hpar : t.par.wf) (hbuf : t.buf = [])
    (hresponse : ∀ p, t.result = .ok p → p.length ≤ 253)
    (hrejected : t.result = .invalidParameter → callOps t.trace = [])
    (htimed : t.result = .timedOut → t.deadline ≤ t.env.now) : t.Inv where
  params := hpar
  empty := fun _ => hbuf
  waiting := by simp [hphase, Phase.wantsBytes]
  decoding := by simp [hphase]
  bounded := by simp [hbuf]
  request := by simp [hphase, Phase.inCall]
  response := fun p _ => hresponse p
  rejected := fun _ => hrejected
  ghosts := by simp [hphase, Phase.inCall]
  order := by rw [hphase]; trivial
  timed := fun _ => htimed

/-- Inv between calls. -/
theorem State.inv_of_idle (hphase : t.phase = .idle) (hpar : t.par.wf) (hbuf : t.buf = []) : t.Inv where
  params := hpar
  empty := fun _ => hbuf
  waiting := by simp [hphase, Phase.wantsBytes]
  decoding := by simp [hphase]
  bounded := by simp [hbuf]
  request := by simp [hphase, Phase.inCall]
  response := by simp [hphase]
  rejected := by simp [hphase]
  ghosts := by simp [hphase, Phase.inCall]
  order := by rw [hphase]; trivial
  timed := by simp [hphase]

theorem State.inv_finish_ioFailed (e : IoCause) (hpar : s.par.wf) : (s.finish (.ioFailed e)).Inv :=
  State.inv_of_done rfl hpar rfl (by simp) (by simp) (by simp)

/-- R97: the retry wait of a call whose buffer wants more bytes. -/
theorem State.Account.inv_armWait (hs : s.Account) (hverdict : s.verdict = .incomplete)
    (horder : opsOfPhase .awaitCheck (callOps s.trace)) : s.armWait.Inv :=
  State.Account.inv_of_waiting hs (.inr (.inr rfl)) hverdict horder

/-- R101 to R103: a complete frame that is removed ends the call with a payload of at most 253 bytes, or leaves the
remainder to be decoded. -/
theorem State.Inv.takeFrame (hs : s.Inv) (hphase : s.phase = .awaitDecode) {pkt : Packet} {n : Nat}
    (hverdict : s.verdict = .complete pkt n) : (s.takeFrame pkt n).Inv := by
  obtain ⟨hn5, hn258, hnbuf, hpayload⟩ := decodeBytes_complete_length hverdict
  obtain ⟨-, ht⟩ | ⟨-, ht⟩ := s.takeFrame_cases pkt n <;> rw [ht]
  · refine State.inv_of_done rfl hs.params rfl ?_ (by simp) (by simp)
    rintro p ⟨⟩
    omega
  · have hacc := (hs.account (by rw [hphase]; rfl)).bufDrop hnbuf
    refine State.Account.inv_of_decoding hacc rfl (.inr ?_) ?_ (hs.readLoop_order (by rw [hphase]; rfl))
    · exact hn5.trans (Nat.le_add_left n s.rxBase)
    · exact (List.drop_sublist n s.buf).length_le.trans hs.bounded

/-! #### The host's operations -/

theorem State.Inv.record (hs : s.Inv) {tr : Transaction} (hnone : transportOp tr = none)
    (hcall : ∀ c p k, tr ≠ .hCall c p k) : (s.record tr).Inv :=
  have hops : callOps (s.record tr).trace = callOps s.trace := callOps_of_transportOp_none s.trace hnone hcall
  { hs with
    rejected := fun hp hr => hops.trans (hs.rejected hp hr)
    order := by rw [hops]; exact hs.order }

theorem State.Inv.withProgram (hs : s.Inv) (ops : List HostOp) : { s with program := ops }.Inv := { hs with }

theorem execXeCall_keeps_inv {cmd : Byte} {payload : Bytes} {timeout : Time} (hs : s.Inv)
    (h : execXeCall cmd payload timeout s = .next t) : t.Inv := by
  obtain ⟨hp, ⟨hlen, rfl⟩ | ⟨-, rfl⟩⟩ := execXeCall_next h
  · have hacc : ((s.record (.hCall cmd payload timeout)).acceptCall cmd payload timeout).Account :=
      ⟨by simpa using hs.params, by simpa using hlen, by simp⟩
    exact hacc.inv_of_sending (.inl (by simp)) (by simp) (by simp [opsOfPhase])
  · exact State.inv_of_done rfl hs.params (hs.empty (by rw [hp]; rfl)) (by simp) (by simp) (by simp)

/-! #### The micro-operations -/

theorem execXeWrite_keeps_inv (hs : s.Inv) (h : execXeWrite s = .next t) : t.Inv := by
  obtain ⟨hp, -, -, ⟨-, rfl⟩ | ⟨e, -, -, rfl⟩⟩ := execXeWrite_next h
  · have hacc := hs.account (by rw [hp]; rfl)
    have hops : callOps s.trace = [] := by simpa [opsOfPhase, hp] using hs.order
    exact State.Account.inv_of_sending hacc (.inr (.inl rfl)) (hs.empty (by rw [hp]; rfl)) (by simp [opsOfPhase, hops])
  · exact State.inv_finish_ioFailed e hs.params

theorem execXeFlush_keeps_inv (hs : s.Inv) (h : execXeFlush s = .next t) : t.Inv := by
  obtain ⟨hp, -, ⟨-, rfl⟩ | ⟨e, -, rfl⟩⟩ := execXeFlush_next h
  · have hacc : s.issueFlush.requestSent.Account := by
      simpa [State.Account] using hs.account (by rw [hp]; rfl)
    have hbuf : s.buf = [] := hs.empty (by rw [hp]; rfl)
    have hops : callOps s.trace = [.write] := by simpa [opsOfPhase, hp] using hs.order
    exact hacc.inv_of_sending (.inr (.inr (by simp))) (by simpa using hbuf) (by simp [opsOfPhase, hops])
  · exact State.inv_finish_ioFailed e hs.params

theorem execXeEnter_keeps_inv (hs : s.Inv) (h : execXeEnter s = .next t) : t.Inv := by
  obtain ⟨hp, rfl⟩ := execXeEnter_next h
  have hacc := hs.account (by rw [hp]; rfl)
  have hbuf : s.buf = [] := hs.empty (by rw [hp]; rfl)
  have hops : callOps s.trace = [.flush, .write] := by simpa [opsOfPhase, hp] using hs.order
  exact State.Account.inv_of_waiting hacc (.inl rfl) (by simp [State.verdict, hbuf]) ⟨0, hops⟩

theorem execXeCheck_keeps_inv (hs : s.Inv) (h : execXeCheck s = .next t) : t.Inv := by
  obtain ⟨hp, ⟨hdeadline, rfl⟩ | ⟨-, rfl⟩⟩ := execXeCheck_next h
  · exact State.inv_of_done rfl hs.params rfl (by simp) (by simp) (by simpa using hdeadline)
  · have hacc := hs.account (by rw [hp]; rfl)
    obtain ⟨hverdict, -⟩ := hs.waiting (by rw [hp]; rfl)
    exact State.Account.inv_of_waiting hacc (.inr (.inl rfl)) hverdict (hs.readLoop_order (by rw [hp]; rfl))

theorem execXeRead_keeps_inv (hs : s.Inv) (h : execXeRead s = .next t) : t.Inv := by
  obtain ⟨hp, -, hreact⟩ := execXeRead_next h
  have hacc : (s.issueRead s.par.rdMax).Account := hs.account (by rw [hp]; rfl)
  obtain ⟨hverdict, hlen⟩ := hs.waiting (by rw [hp]; rfl)
  have horder : opsOfPhase .awaitCheck (callOps (s.issueRead s.par.rdMax).trace) :=
    opsOfPhase_read (hs.readLoop_order (by rw [hp]; rfl))
  obtain ⟨bs, -, hbs, hmax, rfl⟩ | ⟨-, rfl⟩ | ⟨-, rfl⟩ | ⟨e, -, rfl⟩ := hreact
  · refine State.Account.inv_of_decoding (hacc.bufAppend bs) rfl (.inl ?_) ?_ horder <;>
      simp only [State.bufAppend_buf, State.issueRead_buf, State.bufAppend_par, State.issueRead_par,
        List.length_append] <;> omega
  · exact hacc.inv_armWait hverdict horder
  · obtain ht | ⟨e, ht⟩ := (s.issueRead s.par.rdMax).endOfStream_cases <;> rw [ht]
    · exact hacc.inv_armWait hverdict horder
    · exact State.inv_finish_ioFailed e hs.params
  · exact State.inv_finish_ioFailed e hs.params

theorem execXeWait_keeps_inv (hs : s.Inv) (h : execXeWait s = .next t) : t.Inv := by
  obtain ⟨hp, ht⟩ := execXeWait_next h
  have hacc := hs.account (by rw [hp]; rfl)
  obtain ⟨hverdict, -⟩ := hs.waiting (by rw [hp]; rfl)
  have horder : opsOfPhase .awaitCheck (callOps s.trace) := hs.readLoop_order (by rw [hp]; rfl)
  obtain ⟨-, rfl⟩ | ⟨-, rfl⟩ := ht
  · exact State.Account.inv_of_waiting hacc (.inl rfl) hverdict horder
  · exact State.Account.inv_of_waiting (t := s.look) hacc (.inr (.inr hp)) hverdict horder

theorem execXeDecode_keeps_inv (hs : s.Inv) (h : execXeDecode s = .next t) : t.Inv := by
  obtain ⟨hp, hpass⟩ := execXeDecode_next h
  have hacc := hs.account (by rw [hp]; rfl)
  have horder : opsOfPhase .awaitCheck (callOps s.trace) := hs.readLoop_order (by rw [hp]; rfl)
  obtain ⟨hverdict, rfl⟩ | ⟨_, hverdict, rfl⟩ | ⟨pkt, n, hverdict, rfl⟩ := hpass
  · exact State.Account.inv_of_waiting hacc (.inl rfl) hverdict horder
  · have h2 : 2 ≤ s.buf.length := decodeBytes_invalid_length hverdict
    have hbounded := hs.bounded
    refine State.Account.inv_of_decoding (hacc.bufDrop (n := 1) (by omega)) rfl (.inl ?_) ?_ horder <;>
      simp only [State.bufDrop_buf, State.bufDrop_par, List.length_drop] <;> omega
  · exact hs.takeFrame hp hverdict

theorem execXeReturn_keeps_inv (hs : s.Inv) (h : execXeReturn s = .next t) : t.Inv := by
  obtain ⟨hp, rfl⟩ := execXeReturn_next h
  exact State.inv_of_idle rfl hs.params (hs.empty (by rw [hp]; rfl))

theorem microStep_keeps_inv (hs : s.Inv) (h : microStep s = .next t) : t.Inv := by
  unfold microStep at h
  split at h
  · cases h; exact hs
  · exact execXeWrite_keeps_inv hs h
  · exact execXeFlush_keeps_inv hs h
  · exact execXeEnter_keeps_inv hs h
  · exact execXeCheck_keeps_inv hs h
  · exact execXeRead_keeps_inv hs h
  · exact execXeWait_keeps_inv hs h
  · exact execXeDecode_keeps_inv hs h
  · exact execXeReturn_keeps_inv hs h

/-- Settles O53: the invariant is kept by the host's operations and by each micro-operation, and so by every step. -/
theorem stepKeepsTheInvariants : Obligations.StepKeepsTheInvariants :=
  fun _ _ hs h =>
    step_induct (fun _ ops hu => hu.withProgram ops) (fun _ _ hu hnone hcall => hu.record hnone hcall)
      (fun _ _ _ _ _ => execXeCall_keeps_inv) (fun _ _ => microStep_keeps_inv) hs h

end Sys2Proof.Machine

/-! ### O60: nothing survives from one call to the next (10_state.md R24; 93_implementation_defined.md U23) -/

namespace Sys2Proof.Machine

variable {s t u : State}

/-- `s` with other values in the wait latch and the result. -/
def State.stale (s : State) (w : Time) (o : CallOutcome) : State := { s with waitUntil := w, result := o }

/-- `t` is `s` but for latches that the rest of `s`'s call does not read: in a call the result, and the wait latch
outside the wait; in Done every latch but the result; in Idle every latch. -/
inductive State.Alike (s : State) : State → Prop where
  | running (w : Time) (o : CallOutcome) (hcall : s.phase.inCall = true)
      (hwait : s.phase = .awaitWait → w = s.waitUntil) : s.Alike (s.stale w o)
  | ended (c : Byte) (p : Bytes) (d w : Time) (o : CallOutcome) (hcall : s.phase.inCall = false)
      (hresult : s.phase = .done → o = s.result) :
      s.Alike { s with reqCmd := c, reqPayload := p, deadline := d, waitUntil := w, result := o }

theorem State.Alike.observed (h : s.Alike t) :
    t.phase = s.phase ∧ t.buf = s.buf ∧ t.env = s.env ∧ t.trace = s.trace := by
  cases h <;> exact ⟨rfl, rfl, rfl, rfl⟩

/-- Ending the call sets the result, after which no other latch is read. -/
theorem State.alike_finish (s : State) (w : Time) (o o' : CallOutcome) :
    (s.finish o').Alike ((s.stale w o).finish o') :=
  .ended s.reqCmd s.reqPayload s.deadline w o' rfl fun _ => rfl

theorem State.alike_armWait (s : State) (w : Time) (o : CallOutcome) : s.armWait.Alike (s.stale w o).armWait :=
  .running (s.env.nextNow + s.par.retryInterval) o rfl fun _ => rfl

theorem State.alike_endOfStream (s : State) (w : Time) (o : CallOutcome) :
    s.endOfStream.Alike (s.stale w o).endOfStream := by
  cases hp : s.par.eosPolicy
  · simpa [State.endOfStream, hp, State.stale] using s.alike_armWait w o
  · simpa [State.endOfStream, hp, State.stale] using State.alike_finish _ w o _

theorem State.alike_requestSent (s : State) (w : Time) (o : CallOutcome) :
    s.requestSent.Alike (s.stale w o).requestSent := by
  cases hp : s.par.deadlineOrigin <;> simp only [State.requestSent, State.stale, hp] <;>
    exact .running w o rfl nofun

theorem State.alike_takeFrame (s : State) (w : Time) (o : CallOutcome) (pkt : Packet) (n : Nat) :
    (s.takeFrame pkt n).Alike ((s.stale w o).takeFrame pkt n) := by
  obtain ⟨hcmd, ht⟩ | ⟨hcmd, ht⟩ := s.takeFrame_cases pkt n <;> rw [ht]
  · have ht' : (s.stale w o).takeFrame pkt n = ((s.bufDrop n).stale w o).finish (.ok pkt.payload) :=
      if_pos (beq_iff_eq.mpr hcmd)
    rw [ht']
    exact State.alike_finish _ w o _
  · have ht' : (s.stale w o).takeFrame pkt n = State.stale { s.bufDrop n with phase := .awaitDecode } w o :=
      if_neg (mt beq_iff_eq.mp hcmd)
    rw [ht']
    exact .running w o rfl nofun

/-! #### The micro-operations do not read the stale latches -/

@[simp] theorem State.stale_phase (s : State) (w : Time) (o : CallOutcome) : (s.stale w o).phase = s.phase := rfl

theorem execXeWrite_stale (w : Time) (o : CallOutcome) (h : execXeWrite s = .next u) :
    ∃ v, execXeWrite (s.stale w o) = .next v ∧ u.Alike v := by
  obtain ⟨hp, hlen, hmute, ⟨ha, rfl⟩ | ⟨e, n, ha, rfl⟩⟩ := execXeWrite_next h
  · refine ⟨_, ?_, .running w o rfl nofun⟩
    simp [execXeWrite, State.stale, hp, payloadFits, hlen, hmute, ha, State.issueWrite]
  · refine ⟨_, ?_, State.alike_finish _ w o _⟩
    simp [execXeWrite, State.stale, hp, payloadFits, hlen, hmute, ha, State.issueWrite]

theorem execXeFlush_stale (w : Time) (o : CallOutcome) (h : execXeFlush s = .next u) :
    ∃ v, execXeFlush (s.stale w o) = .next v ∧ u.Alike v := by
  obtain ⟨hp, hmute, ⟨ha, rfl⟩ | ⟨e, ha, rfl⟩⟩ := execXeFlush_next h
  · refine ⟨_, ?_, State.alike_requestSent _ w o⟩
    simp [execXeFlush, State.stale, hp, hmute, ha, State.issueFlush]
  · refine ⟨_, ?_, State.alike_finish _ w o _⟩
    simp [execXeFlush, State.stale, hp, hmute, ha, State.issueFlush]

theorem execXeEnter_stale (w : Time) (o : CallOutcome) (h : execXeEnter s = .next u) :
    ∃ v, execXeEnter (s.stale w o) = .next v ∧ u.Alike v := by
  obtain ⟨hp, rfl⟩ := execXeEnter_next h
  refine ⟨_, ?_, .running w o rfl nofun⟩
  simp [execXeEnter, State.stale, hp]

theorem execXeCheck_stale (w : Time) (o : CallOutcome) (h : execXeCheck s = .next u) :
    ∃ v, execXeCheck (s.stale w o) = .next v ∧ u.Alike v := by
  obtain ⟨hp, ⟨hdeadline, rfl⟩ | ⟨hdeadline, rfl⟩⟩ := execXeCheck_next h
  · refine ⟨_, ?_, State.alike_finish _ w o _⟩
    simp [execXeCheck, State.stale, hp, hdeadline, State.deadlineReached, State.look]
  · refine ⟨_, ?_, .running w o rfl nofun⟩
    simp [execXeCheck, State.stale, hp, hdeadline, State.deadlineReached, State.look]

theorem execXeRead_stale (w : Time) (o : CallOutcome) (h : execXeRead s = .next u) :
    ∃ v, execXeRead (s.stale w o) = .next v ∧ u.Alike v := by
  obtain ⟨hp, hmute, hreact⟩ := execXeRead_next h
  obtain ⟨bs, ha, hbs, hmax, rfl⟩ | ⟨ha, rfl⟩ | ⟨ha, rfl⟩ | ⟨e, ha, rfl⟩ := hreact
  · refine ⟨_, ?_, .running w o rfl nofun⟩
    have hne : bs ≠ [] := List.ne_nil_of_length_pos hbs
    simp [execXeRead, State.stale, hp, hmute, ha, answerInTypes, hmax, hne, State.bufAppend, State.issueRead]
  · refine ⟨_, ?_, State.alike_armWait _ w o⟩
    simp [execXeRead, State.stale, hp, hmute, ha, answerInTypes, State.issueRead]
  · refine ⟨_, ?_, State.alike_endOfStream _ w o⟩
    simp [execXeRead, State.stale, hp, hmute, ha, answerInTypes, State.issueRead]
  · refine ⟨_, ?_, State.alike_finish _ w o _⟩
    simp [execXeRead, State.stale, hp, hmute, ha, answerInTypes, State.issueRead]

/-- The wait latch is read in the wait, so it must be the same there. -/
theorem execXeWait_stale (o : CallOutcome) (h : execXeWait s = .next u) :
    ∃ v, execXeWait (s.stale s.waitUntil o) = .next v ∧ u.Alike v := by
  obtain ⟨hp, ⟨hwait, rfl⟩ | ⟨hwait, rfl⟩⟩ := execXeWait_next h
  · refine ⟨_, ?_, .running s.waitUntil o rfl nofun⟩
    simp [execXeWait, State.stale, hp, hwait, State.waitOver, State.look]
  · refine ⟨_, ?_, .running s.waitUntil o (by simp [hp, Phase.inCall]) fun _ => rfl⟩
    simp [execXeWait, State.stale, hp, hwait, State.waitOver, State.look]

theorem execXeDecode_stale (w : Time) (o : CallOutcome) (h : execXeDecode s = .next u) :
    ∃ v, execXeDecode (s.stale w o) = .next v ∧ u.Alike v := by
  obtain ⟨hp, hpass⟩ := execXeDecode_next h
  obtain ⟨hv, rfl⟩ | ⟨r, hv, rfl⟩ | ⟨pkt, n, hv, rfl⟩ := hpass <;> rw [State.verdict] at hv
  · refine ⟨_, ?_, .running w o rfl nofun⟩
    simp [execXeDecode, State.verdict, State.stale, hp, hv]
  · refine ⟨_, ?_, .running w o rfl nofun⟩
    simp [execXeDecode, State.verdict, State.stale, hp, hv, State.bufDrop]
  · refine ⟨_, ?_, s.alike_takeFrame w o pkt n⟩
    simp [execXeDecode, State.verdict, State.stale, hp, hv]

theorem microStep_alike (h : s.Alike t) (hbusy : s.phase ≠ .idle) (hu : microStep s = .next u) :
    ∃ v, microStep t = .next v ∧ u.Alike v := by
  cases h with
  | running w o hcall hwait =>
    cases hp : s.phase <;> simp only [microStep, State.stale_phase, hp] at hu ⊢
    case idle => exact absurd hp hbusy
    case sendWrite => exact execXeWrite_stale w o hu
    case sendFlush => exact execXeFlush_stale w o hu
    case sent => exact execXeEnter_stale w o hu
    case awaitCheck => exact execXeCheck_stale w o hu
    case awaitRead => exact execXeRead_stale w o hu
    case awaitWait => exact hwait hp ▸ execXeWait_stale o hu
    case awaitDecode => exact execXeDecode_stale w o hu
    case done => rw [hp] at hcall; cases hcall
  | ended c p d w o hcall hresult =>
    have hp : s.phase = .done := by cases hp : s.phase <;> simp_all [Phase.inCall]
    simp only [microStep, hp] at hu ⊢
    obtain ⟨-, rfl⟩ := execXeReturn_next hu
    refine ⟨_, ?_, .ended c p d w o rfl nofun⟩
    simp [execXeReturn, hresult hp, State.handBack]

/-! #### The call -/

theorem runCall_alike (n : Nat) (h : s.Alike t) (hu : runCall n s = .next u) :
    ∃ v, runCall n t = .next v ∧ u.Alike v := by
  induction n generalizing s t with
  | zero => cases hu; exact ⟨t, rfl, h⟩
  | succ n ih =>
    have hphase : t.phase = s.phase := h.observed.1
    by_cases hp : s.phase = .idle
    · simp only [runCall, hphase, hp, if_true] at hu ⊢
      cases hu; exact ⟨t, rfl, h⟩
    · simp only [runCall, hphase, hp, if_false] at hu ⊢
      split at hu
      · rename_i s' hs'
        obtain ⟨t', ht', halike⟩ := microStep_alike h hp hs'
        simpa only [ht'] using ih halike hu
      · cases hu
      · cases hu

/-- R92: an accepted call overwrites the request and the deadline, a rejected one the result. -/
theorem execXeCall_alike {cmd : Byte} {payload : Bytes} {timeout : Time} (c : Byte) (p : Bytes) (d w : Time)
    (o : CallOutcome) (hu : execXeCall cmd payload timeout s = .next u) :
    ∃ v, execXeCall cmd payload timeout
        { s with reqCmd := c, reqPayload := p, deadline := d, waitUntil := w, result := o } = .next v ∧
      u.Alike v := by
  obtain ⟨hp, ⟨hlen, rfl⟩ | ⟨hlen, rfl⟩⟩ := execXeCall_next hu
  · refine ⟨_, ?_, .running w o (by simp [Phase.inCall]) (by simp)⟩
    cases ho : s.par.deadlineOrigin <;>
      simp [execXeCall, hp, payloadFits, hlen, State.record, State.acceptCall, ho, State.look, State.latch,
        State.stale]
  · refine ⟨_, ?_, .ended c p d w .invalidParameter rfl fun _ => rfl⟩
    simp [execXeCall, hp, payloadFits, hlen, State.record]

/-- Settles O60: after XE.CALL the states differ only in latches the call does not read, and every micro-operation
keeps it so. -/
theorem staleLatchesNeverMatter : Obligations.StaleLatchesNeverMatter := by
  intro s t c c' p p' timeout d w o h
  obtain ⟨u, hu, hrun⟩ := execSendAndAwait_next h
  obtain ⟨u', hu', hcall⟩ := execXeCall_alike c' p' d w o hu
  obtain ⟨t', ht', halike⟩ := runCall_alike _ hcall hrun
  refine ⟨t', ?_, halike.observed⟩
  simp only [exec, execSendAndAwait, hu']
  exact ht'

end Sys2Proof.Machine

/-! ### O51, O52: reset (10_state.md R27, R28; 70_reset_and_hazards.md R160 to R162) -/

namespace Sys2Proof

/-- What R9, R55 and R73 ask of the registry's table: `GetAngles` is in it, and no name or opcode stands in it twice. -/
def Config.TableWf (known : List (CommandName × Byte)) : Prop :=
  (CommandName.getAngles, (0x20#8 : Byte)) ∈ known ∧ (known.map Prod.fst).Nodup ∧ (known.map Prod.snd).Nodup

/-- R73: an entry is added only when its name and its opcode are new. -/
theorem Config.TableWf.addEntry {known : List (CommandName × Byte)} (h : Config.TableWf known) (entry : Nat × Byte) :
    Config.TableWf (Config.addEntry known entry) := by
  obtain ⟨hmem, hnames, hopcodes⟩ := h
  unfold Config.addEntry
  split
  · exact ⟨hmem, hnames, hopcodes⟩
  · rename_i hnew
    obtain ⟨hname, hopcode⟩ := not_or.mp hnew
    refine ⟨List.mem_append_left _ hmem, ?_, ?_⟩
    · simpa using hnames.concat hname
    · simpa using hopcodes.concat hopcode

theorem Config.TableWf.foldl_addEntry (entries : List (Nat × Byte)) {known : List (CommandName × Byte)}
    (h : Config.TableWf known) : Config.TableWf (entries.foldl Config.addEntry known) := by
  induction entries generalizing known with
  | nil => exact h
  | cons entry entries ih => exact ih (h.addEntry entry)

/-- The parameters of this implementation are in their ranges, whatever values the free ones have. -/
theorem Config.params_wf : Config.params.wf :=
  have hseed : Config.TableWf [(.getAngles, 0x20#8)] := by simp [Config.TableWf]
  have ⟨hmem, hnames, hopcodes⟩ := hseed.foldl_addEntry Config.otherCommands
  { retryInterval := Nat.le_add_left 1 _
    rdMax := Nat.le_add_left 1 _
    getAngles := hmem
    names := hnames
    opcodes := hopcodes }

namespace Machine

variable {s : State}

theorem State.reset_inv : State.reset.Inv := State.inv_of_idle rfl Config.params_wf rfl

theorem State.reset_scanned : State.reset.Scanned where
  running := nofun
  found := nofun

/-- Settles O52: the block is Idle with an empty buffer, and the table is built without repeats. -/
theorem resetMeetsTheInvariants : Obligations.ResetMeetsTheInvariants := ⟨State.reset_inv, State.reset_scanned⟩

theorem State.resetBlock_of_idle (hp : s.phase = .idle) :
    s.resetBlock = .next { State.resetBeside s.par s.env with program := s.program, trace := s.trace } :=
  if_neg (not_not.mpr hp)

theorem State.resetBlock_of_not_idle (hp : s.phase ≠ .idle) : s.resetBlock = .refused .resetInCall := if_pos hp

/-- Settles O51: the reset state as it is written, and the two branches of State.resetBlock. -/
theorem resetIsBetweenCalls : Obligations.ResetIsBetweenCalls :=
  ⟨⟨rfl, rfl, rfl, rfl⟩, fun _ =>
    ⟨fun hp => ⟨_, State.resetBlock_of_idle hp, rfl, rfl, rfl, rfl, rfl, rfl⟩, State.resetBlock_of_not_idle⟩⟩

end Machine

end Sys2Proof

/-! ### O55: what a step runs (10_state.md R15, R23; 41_exchange_engine.md R106; 60_exceptions.md R151) -/

namespace Sys2Proof.Machine

variable {s : State}

theorem hostReady_cons {op : HostOp} {ops : List HostOp} (hprogram : s.program = op :: ops) :
    hostReady s = true ↔ hostOpAnyPhase op = true ∨ s.phase = .idle := by
  simp [hostReady, hprogram]

/-- R23, R91: a host operation that is ready leaves the program and runs. -/
theorem step_of_host {op : HostOp} {ops : List HostOp} (hprogram : s.program = op :: ops)
    (hready : hostOpAnyPhase op = true ∨ s.phase = .idle) :
    step s = exec (hostInstr op) { s with program := ops } := by
  have hr : hostReady s = true := (hostReady_cons hprogram).mpr hready
  obtain ⟨op', ops', hprogram', -, hstep⟩ | ⟨hr', -⟩ := step_cases s
  · obtain ⟨rfl, rfl⟩ := List.cons.inj (hprogram.symm.trans hprogram')
    exact hstep
  · rw [hr] at hr'; cases hr'

/-- R106: with no host operation ready, the engine's micro-operation runs. -/
theorem step_of_not_hostReady (hr : hostReady s = false) : step s = microStep s := by
  obtain ⟨op, ops, hprogram, hready, -⟩ | ⟨-, hstep⟩ := step_cases s
  · rw [(hostReady_cons hprogram).mpr hready] at hr; cases hr
  · exact hstep

theorem step_of_engineInstr {i : Instr} (hr : hostReady s = false) (hi : engineInstr s = some i) :
    step s = exec i s :=
  (step_of_not_hostReady hr).trans (exec_engineInstr hi).symm

/-- Log 9: in AwaitDecode a whole frame at the front of the buffer is the instruction. -/
theorem engineInstr_of_frame {i : Instr} (hp : s.phase = .awaitDecode)
    (hdecode : decodeInstr s.par.lenCheck s.buf = some i) : engineInstr s = some i := by
  simp [engineInstr, hp, hdecode]

/-- R15: without such a frame the instruction is the phase's micro-operation. -/
theorem engineInstr_of_microOp {i : Instr} (hmicro : s.phase.microOp = some i)
    (hdecode : s.phase = .awaitDecode → decodeInstr s.par.lenCheck s.buf = none) : engineInstr s = some i := by
  cases hp : s.phase <;> rw [hp] at hmicro <;> cases hmicro
  case awaitDecode => simp [engineInstr, hp, hdecode hp]
  all_goals simp [engineInstr, hp]

/-- R151: Idle with nothing to issue stays as it is. -/
theorem step_of_idle_of_no_program (hp : s.phase = .idle) (hprogram : s.program = []) : step s = .next s := by
  have hr : hostReady s = false := by simp [hostReady, hprogram]
  rw [step_of_not_hostReady hr, microStep, hp]

/-- Settles O55: one case of the next instruction for each clause. -/
theorem stepRunsTheNextInstruction : Obligations.StepRunsTheNextInstruction :=
  ⟨fun _ _ hr hp hdecode => step_of_engineInstr hr (engineInstr_of_frame hp hdecode),
    fun _ _ hr hmicro hdecode => step_of_engineInstr hr (engineInstr_of_microOp hmicro hdecode),
    fun _ _ _ => step_of_host, fun _ => step_of_idle_of_no_program⟩

end Sys2Proof.Machine

/-! ### O41: a transport operation has its phase (20_memory.md R44; 93_implementation_defined.md U10) -/

namespace Sys2Proof.Machine

/-- Settles O41: the guard on the phase is the first test of each of the three operations. -/
theorem transportBelongsToTheEngine : Obligations.TransportBelongsToTheEngine :=
  fun _ => ⟨fun hp _ => if_pos hp, fun hp => if_pos hp, fun hp _ => if_pos hp⟩

end Sys2Proof.Machine

/-! ### O58, O59: what an instruction does to the buffer and the streams (20_memory.md R37, R42, R45;
70_reset_and_hazards.md R171) -/

namespace Sys2Proof.Machine

variable {s t : State} {i : Instr}

/-- The changes of R37 that let no byte in: the buffer stays, is cleared, or loses one byte or a frame at the front. -/
inductive BufReduced (b : Bytes) : Bytes → Prop
  | kept : BufReduced b b
  | cleared : BufReduced b []
  | byteDropped : BufReduced b (b.drop 1)
  | frameDropped (n : Nat) (hmin : 5 ≤ n) (hmax : n ≤ 258) : BufReduced b (b.drop n)

theorem BufReduced.of_eq {b b' : Bytes} (h : b' = b) : BufReduced b b' := h ▸ .kept

theorem BufReduced.of_eq_nil {b b' : Bytes} (h : b' = []) : BufReduced b b' := h ▸ .cleared

theorem BufReduced.suffix {b b' : Bytes} (h : BufReduced b b') : b' <:+ b := by
  cases h with
  | kept => exact List.suffix_rfl
  | cleared => exact List.nil_suffix
  | byteDropped => exact List.drop_suffix 1 b
  | frameDropped n => exact List.drop_suffix n b

/-- R37, R97: some delivered bytes, no more than a T.READ may deliver, have joined the buffer. -/
def State.BufAppended (t s : State) : Prop :=
  ∃ bs, 1 ≤ bs.length ∧ bs.length ≤ s.par.rdMax ∧ t.buf = s.buf ++ bs

/-- From `s` to `t` nothing has been taken from a stream or added to one, and no byte let into the buffer. -/
structure State.Quiet (t s : State) : Prop where
  buf : BufReduced s.buf t.buf
  reads : t.env.reads = s.env.reads
  readsThen : t.env.readsThen = s.env.readsThen
  rx : t.rx = s.rx
  tx : t.env.tx = s.env.tx

/-- What an instruction may do to the buffer and the streams: each change names the instructions it belongs to. -/
structure Footprint (i : Instr) (s t : State) : Prop where
  buf : BufReduced s.buf t.buf ∨ i = .xeRead ∧ t.BufAppended s
  reads : t.env.reads = s.env.reads ∨ i = .xeRead ∨ ∃ max, i = .tRead max
  readsThen : t.env.readsThen = s.env.readsThen
  rx : t.rx = s.rx ∨ i = .xeRead ∨ (∃ c p k, i = .xeCall c p k) ∧ t.rx = []
  tx : t.env.tx = s.env.tx ∨ i = .xeWrite ∨ ∃ bs, i = .tWrite bs

theorem State.Quiet.footprint (h : t.Quiet s) : Footprint i s t :=
  ⟨.inl h.buf, .inl h.reads, h.readsThen, .inl h.rx, .inl h.tx⟩

/-! #### The operations and instructions that touch no stream -/

theorem State.record_quiet (s : State) (tr : Transaction) : (s.record tr).Quiet s := ⟨.kept, rfl, rfl, rfl, rfl⟩

theorem State.requestSent_quiet (s : State) : s.requestSent.Quiet s := by
  obtain ⟨-, henv⟩ | ⟨-, henv⟩ := s.requestSent_trace_env
  all_goals exact ⟨.of_eq (by simp), by simp [henv], by simp [henv], by simp, by simp [henv]⟩

/-- R126: the buffer is left for the retry, or cleared with the end of the call. -/
theorem State.endOfStream_quiet (s : State) : s.endOfStream.Quiet s := by
  obtain ht | ⟨_, ht⟩ := s.endOfStream_cases <;> rw [ht]
  · exact ⟨.kept, by simp, by simp, rfl, by simp⟩
  · exact ⟨.cleared, rfl, rfl, rfl, rfl⟩

/-- R101: the frame that is removed has 5 to 258 bytes; at a match what follows it is cleared too (R102). -/
theorem State.takeFrame_quiet {pkt : Packet} {n : Nat} (hverdict : s.verdict = .complete pkt n) :
    (s.takeFrame pkt n).Quiet s := by
  obtain ⟨hmin, hmax, -⟩ := decodeBytes_complete_length hverdict
  obtain ⟨-, ht⟩ | ⟨-, ht⟩ := s.takeFrame_cases pkt n <;> rw [ht]
  · exact ⟨.cleared, rfl, rfl, rfl, rfl⟩
  · exact ⟨.frameDropped n hmin hmax, rfl, rfl, rfl, rfl⟩

theorem receiveFrame_quiet {pkt : Packet} (h : receiveFrame pkt s = .next t) : t.Quiet s := by
  obtain ⟨-, hverdict, rfl⟩ := receiveFrame_next h
  exact State.takeFrame_quiet hverdict

theorem execEncode_quiet {cmd : Byte} {payload : Bytes} (h : execEncode cmd payload s = .next t) : t.Quiet s := by
  unfold execEncode at h
  split at h <;> cases h
  exact s.record_quiet _

theorem execOpcodeOf_quiet {command : Command} (h : execOpcodeOf command s = .next t) : t.Quiet s := by
  unfold execOpcodeOf at h
  split at h <;> cases h
  exact s.record_quiet _

theorem execXeFlush_quiet (h : execXeFlush s = .next t) : t.Quiet s := by
  obtain ⟨-, -, ⟨-, rfl⟩ | ⟨_, -, rfl⟩⟩ := execXeFlush_next h
  · have hsent := s.issueFlush.requestSent_quiet
    exact ⟨hsent.buf, by simp [hsent.reads], by simp [hsent.readsThen], hsent.rx, by simp [hsent.tx]⟩
  · exact ⟨.cleared, by simp, by simp, rfl, by simp⟩

theorem execXeEnter_quiet (h : execXeEnter s = .next t) : t.Quiet s := by
  obtain ⟨-, rfl⟩ := execXeEnter_next h
  exact ⟨.kept, rfl, rfl, rfl, rfl⟩

theorem execXeCheck_quiet (h : execXeCheck s = .next t) : t.Quiet s := by
  obtain ⟨-, ⟨-, rfl⟩ | ⟨-, rfl⟩⟩ := execXeCheck_next h
  · exact ⟨.cleared, by simp, by simp, rfl, by simp⟩
  · exact ⟨.kept, by simp, by simp, rfl, by simp⟩

theorem execXeWait_quiet (h : execXeWait s = .next t) : t.Quiet s := by
  obtain ⟨-, ⟨-, rfl⟩ | ⟨-, rfl⟩⟩ := execXeWait_next h
  all_goals exact ⟨.kept, by simp, by simp, rfl, by simp⟩

theorem execXeDecode_quiet (h : execXeDecode s = .next t) : t.Quiet s := by
  obtain ⟨-, ⟨-, rfl⟩ | ⟨_, -, rfl⟩ | ⟨_, _, hverdict, rfl⟩⟩ := execXeDecode_next h
  · exact ⟨.kept, rfl, rfl, rfl, rfl⟩
  · exact ⟨.byteDropped, rfl, rfl, rfl, rfl⟩
  · exact State.takeFrame_quiet hverdict

theorem execXeReturn_quiet (h : execXeReturn s = .next t) : t.Quiet s := by
  obtain ⟨-, rfl⟩ := execXeReturn_next h
  exact ⟨.kept, rfl, rfl, rfl, rfl⟩

theorem execTFlush_quiet (h : execTFlush s = .next t) : t.Quiet s := by
  obtain ⟨-, -, rfl⟩ := execTFlush_next h
  exact ⟨.kept, by simp, by simp, rfl, by simp⟩

/-! #### The five other instructions -/

/-- R92: an accepted call clears the buffer and the account of the received bytes; a rejected one leaves both. -/
theorem execXeCall_footprint {cmd : Byte} {payload : Bytes} {timeout : Time}
    (h : execXeCall cmd payload timeout s = .next t) : Footprint (.xeCall cmd payload timeout) s t := by
  obtain ⟨-, ⟨-, rfl⟩ | ⟨-, rfl⟩⟩ := execXeCall_next h
  · obtain ⟨-, henv⟩ | ⟨-, henv⟩ :=
      (s.record (.hCall cmd payload timeout)).acceptCall_trace_env cmd payload timeout
    all_goals
      exact ⟨.inl (.of_eq_nil (by simp)), .inl (by simp [henv]), by simp [henv],
        .inr (.inr ⟨⟨_, _, _, rfl⟩, by simp⟩), .inl (by simp [henv])⟩
  · exact ⟨.inl .kept, .inl rfl, rfl, .inl rfl, .inl rfl⟩

theorem execXeWrite_footprint (h : execXeWrite s = .next t) : Footprint .xeWrite s t := by
  obtain ⟨-, -, -, ⟨-, rfl⟩ | ⟨_, _, -, rfl⟩⟩ := execXeWrite_next h
  · exact ⟨.inl .kept, .inl (by simp), by simp, .inl rfl, .inr (.inl rfl)⟩
  · exact ⟨.inl .cleared, .inl (by simp), by simp, .inl rfl, .inr (.inl rfl)⟩

theorem execXeRead_footprint (h : execXeRead s = .next t) : Footprint .xeRead s t := by
  obtain ⟨-, -, ⟨bs, -, hmin, hmax, rfl⟩ | ⟨-, rfl⟩ | ⟨-, rfl⟩ | ⟨_, -, rfl⟩⟩ := execXeRead_next h
  · exact ⟨.inr ⟨rfl, bs, hmin, hmax, rfl⟩, .inr (.inl rfl), by simp, .inr (.inl rfl), .inl (by simp)⟩
  · exact ⟨.inl .kept, .inr (.inl rfl), by simp, .inr (.inl rfl), .inl (by simp)⟩
  · have hend := (s.issueRead s.par.rdMax).endOfStream_quiet
    exact ⟨.inl hend.buf, .inr (.inl rfl), by simp [hend.readsThen], .inr (.inl rfl), .inl (by simp [hend.tx])⟩
  · exact ⟨.inl .cleared, .inr (.inl rfl), by simp, .inr (.inl rfl), .inl (by simp)⟩

theorem execTWrite_footprint {bytes : Bytes} (h : execTWrite bytes s = .next t) :
    Footprint (.tWrite bytes) s t := by
  obtain ⟨-, -, rfl⟩ := execTWrite_next h
  exact ⟨.inl .kept, .inl (by simp), by simp, .inl rfl, .inr (.inr ⟨bytes, rfl⟩)⟩

theorem execTRead_footprint {max : Nat} (h : execTRead max s = .next t) : Footprint (.tRead max) s t := by
  obtain ⟨-, -, -, rfl⟩ := execTRead_next h
  exact ⟨.inl .kept, .inr (.inr ⟨max, rfl⟩), by simp, .inl rfl, .inl (by simp)⟩

/-! #### Every instruction -/

/-- Every instruction but SEND_AND_AWAIT, which is a run of others, keeps to its footprint. -/
theorem exec_footprint (hi : ∀ c p k, i ≠ .sendAndAwait c p k) (h : exec i s = .next t) : Footprint i s t := by
  cases i with
  | frame => exact (receiveFrame_quiet h).footprint
  | getAngles => exact (receiveFrame_quiet h).footprint
  | encode => exact (execEncode_quiet h).footprint
  | decode => cases h; exact (s.record_quiet _).footprint
  | opcodeOf => exact (execOpcodeOf_quiet h).footprint
  | commandOf => cases h; exact (s.record_quiet _).footprint
  | sendAndAwait c p k => exact absurd rfl (hi c p k)
  | xeCall => exact execXeCall_footprint h
  | xeWrite => exact execXeWrite_footprint h
  | xeFlush => exact (execXeFlush_quiet h).footprint
  | xeEnter => exact (execXeEnter_quiet h).footprint
  | xeCheck => exact (execXeCheck_quiet h).footprint
  | xeRead => exact execXeRead_footprint h
  | xeWait => exact (execXeWait_quiet h).footprint
  | xeDecode => exact (execXeDecode_quiet h).footprint
  | xeReturn => exact (execXeReturn_quiet h).footprint
  | tWrite => exact execTWrite_footprint h
  | tFlush => exact (execTFlush_quiet h).footprint
  | tRead => exact execTRead_footprint h

/-- Settles O58: the four ways of BufReduced, and the delivered bytes of XE.READ. -/
theorem bufferChangesThreeWays : Obligations.BufferChangesThreeWays := by
  intro i s t hi h
  obtain hreduced | ⟨-, happended⟩ := (exec_footprint hi h).buf
  · generalize t.buf = b at hreduced ⊢
    cases hreduced with
    | kept => exact .inl rfl
    | cleared => exact .inr (.inl rfl)
    | byteDropped => exact .inr (.inr (.inl rfl))
    | frameDropped n hmin hmax => exact .inr (.inr (.inr (.inl ⟨n, hmin, hmax, rfl⟩)))
  · exact .inr (.inr (.inr (.inr happended)))

/-- Settles O59: each clause is a field of the footprint, less the instructions the clause leaves out. -/
theorem streamsAreTouchedByTheirOperationsOnly : Obligations.StreamsAreTouchedByTheirOperationsOnly := by
  intro i s t hi h
  obtain ⟨hbuf, hreads, hreadsThen, hrx, htx⟩ := exec_footprint hi h
  refine ⟨fun hread => ?_, fun hread htRead => ?_, hreadsThen, fun hread hcall => ?_, ?_, fun hwrite htWrite => ?_⟩
  · exact (hbuf.resolve_right fun happended => hread happended.1).suffix
  · exact hreads.resolve_right (not_or.mpr ⟨hread, not_exists.mpr htRead⟩)
  · refine hrx.resolve_right (not_or.mpr ⟨hread, ?_⟩)
    rintro ⟨⟨c, p, k, hxeCall⟩, -⟩
    exact hcall c p k hxeCall
  · rintro ⟨c, p, k, rfl⟩
    exact hrx.imp_right fun hcleared => (hcleared.resolve_left (by simp)).2
  · exact htx.resolve_right (not_or.mpr ⟨hwrite, not_exists.mpr htWrite⟩)

end Sys2Proof.Machine

/-! ### O12: an encoded instruction is read back (30_encoding.md R50, R51, R53; 40_codec.md R70, R71, R76) -/

namespace Sys2Proof

/-- R71 from step 4a on: DECODE after a good header, with the footer's place counted from the length byte. -/
theorem decodeBytes_of_header (lc : LenCheck) (len : Byte) (rest : Bytes) :
    decodeBytes lc (headerByte :: headerByte :: len :: rest) =
      if lc = .early ∧ len.toNat < 2 then .invalid .lengthTooSmall
      else if rest.length < len.toNat then .incomplete
      else if byteAt (len :: rest) len.toNat ≠ footerByte then .invalid .badFooter
      else if len.toNat < 2 then .invalid .lengthTooSmall
      else .complete { cmd := byteAt rest 0, payload := (rest.drop 1).take (len.toNat - 2) } (3 + len.toNat) := by
  have hshort : rest.length + 1 + 1 + 1 < 3 + len.toNat ↔ rest.length < len.toNat := by omega
  have hfooter : 3 + len.toNat - 1 = len.toNat + 2 := by omega
  simp [decodeBytes, byteAt, hshort, hfooter]

/-- R51: the addition in the length byte never carries out of 8 bits. -/
theorem toNat_lengthByte {p : Bytes} (hp : p.length ≤ maxPayload) :
    (BitVec.ofNat 8 (p.length + 2)).toNat = p.length + 2 :=
  (BitVec.toNat_ofNat ..).trans (Nat.mod_eq_of_lt ((Nat.add_le_add_right hp 2).trans_lt (by decide)))

/-- R76, R78: DECODE gives an encoded packet back, whatever follows it, for both places of the length check. -/
theorem decodeBytes_encodePacket_append (lc : LenCheck) (k : Byte) {p : Bytes} (x : Bytes)
    (hp : p.length ≤ maxPayload) :
    decodeBytes lc (encodePacket k p ++ x) = .complete { cmd := k, payload := p } (encodePacket k p).length := by
  have hbytes : encodePacket k p ++ x =
      headerByte :: headerByte :: BitVec.ofNat 8 (p.length + 2) :: k :: (p ++ footerByte :: x) := by
    simp [encodePacket]
  have hfooter : byteAt (BitVec.ofNat 8 (p.length + 2) :: k :: (p ++ footerByte :: x)) (p.length + 2) =
      footerByte := by
    simp [byteAt]
  have htotal : 3 + (p.length + 2) = (encodePacket k p).length := by
    rw [Laws.EncodedLength.encodePacket_length]; omega
  rw [hbytes, decodeBytes_of_header, toNat_lengthByte hp, hfooter, htotal]
  simp [byteAt]

theorem decodeInstr_encodePacket_append (lc : LenCheck) (k : Byte) {p : Bytes} (x : Bytes)
    (hp : p.length ≤ maxPayload) :
    decodeInstr lc (encodePacket k p ++ x) = some (packetInstr { cmd := k, payload := p }) := by
  simp only [decodeInstr, decodeBytes_encodePacket_append lc k x hp]

theorem decodeInstrRest_encodePacket_append (lc : LenCheck) (k : Byte) {p : Bytes} (x : Bytes)
    (hp : p.length ≤ maxPayload) :
    decodeInstrRest lc (encodePacket k p ++ x) = some (packetInstr { cmd := k, payload := p }, x) := by
  simp only [decodeInstrRest, decodeBytes_encodePacket_append lc k x hp, List.drop_left]

/-- R50, R55: the well-formed instructions with a bit pattern are those a packet of at most 253 payload bytes stands
for, and their encoding is that packet's. -/
theorem wellFormed_encodeInstr {i : Instr} {bs : Bytes} (hwf : i.wellFormed = true) (henc : encodeInstr i = some bs) :
    ∃ k p, p.length ≤ maxPayload ∧ i = packetInstr { cmd := k, payload := p } ∧ bs = encodePacket k p := by
  cases i <;> cases henc
  case frame k p =>
    obtain ⟨hp, hk⟩ : p.length ≤ maxPayload ∧ k ≠ getAnglesOpcode := by simpa [Instr.wellFormed] using hwf
    exact ⟨k, p, hp, (if_neg hk).symm, rfl⟩
  case getAngles p => exact ⟨getAnglesOpcode, p, by simpa [Instr.wellFormed] using hwf, rfl, rfl⟩

/-- Settles O12: the instruction is a packet's, and DECODE gives the packet back. -/
theorem instrRoundTrip : Obligations.InstrRoundTrip := by
  intro lc i bs x hwf henc
  obtain ⟨k, p, hp, rfl, rfl⟩ := wellFormed_encodeInstr hwf henc
  refine ⟨?_, decodeInstrRest_encodePacket_append lc k x hp⟩
  simpa using decodeInstr_encodePacket_append lc k [] hp

end Sys2Proof

/-! ### O5, O6: illegal encodings and reserved lengths (30_encoding.md R59, R60; 40_codec.md R71) -/

namespace Sys2Proof

/-- R59, first row; the place of the length check does not matter. -/
theorem decodeBytes_badHeader_iff {lc : LenCheck} {b : Bytes} :
    decodeBytes lc b = .invalid .badHeader ↔
      2 ≤ b.length ∧ ¬(byteAt b 0 = headerByte ∧ byteAt b 1 = headerByte) := by
  unfold decodeBytes
  split_ifs <;> grind

/-- R59, second row: a frame that is all there, its last byte not the footer. -/
theorem decodeBytes_badFooter_iff {b : Bytes} :
    decodeBytes .late b = .invalid .badFooter ↔
      byteAt b 0 = headerByte ∧ byteAt b 1 = headerByte ∧ 3 + (byteAt b 2).toNat ≤ b.length ∧
        byteAt b (2 + (byteAt b 2).toNat) ≠ footerByte := by
  unfold decodeBytes
  split_ifs <;> grind

/-- R59, third row, as R71 tests it: a frame that is all there, its length field too small for an opcode. -/
theorem decodeBytes_lengthTooSmall_iff {b : Bytes} :
    decodeBytes .late b = .invalid .lengthTooSmall ↔
      byteAt b 0 = headerByte ∧ byteAt b 1 = headerByte ∧ (byteAt b 2).toNat < 2 ∧
        3 + (byteAt b 2).toNat ≤ b.length ∧ byteAt b (2 + (byteAt b 2).toNat) = footerByte := by
  unfold decodeBytes
  split_ifs <;> grind

/-- R60: with a length field of 0 the footer's place is the length byte itself, so only the value 1 is left. -/
theorem lengthBelowTwo_and_footer_iff {b : Bytes} :
    (byteAt b 2).toNat < 2 ∧ 3 + (byteAt b 2).toNat ≤ b.length ∧ byteAt b (2 + (byteAt b 2).toNat) = footerByte ↔
      byteAt b 2 = 0x01#8 ∧ 4 ≤ b.length ∧ byteAt b 3 = footerByte := by
  constructor
  · rintro ⟨hlen, hall, hfooter⟩
    obtain h0 | h1 : byteAt b 2 = 0x00#8 ∨ byteAt b 2 = 0x01#8 := by bv_omega
    · rw [h0] at hfooter
      exact absurd (h0.symm.trans hfooter) (by decide)
    · rw [h1] at hall hfooter
      exact ⟨h1, hall, hfooter⟩
  · rintro ⟨h1, hall, hfooter⟩
    rw [h1]
    exact ⟨by decide, hall, hfooter⟩

/-- Settles O5, a row of R59's table for each reason. -/
theorem illegalEncodingsAreThree : Obligations.IllegalEncodingsAreThree :=
  fun _ => ⟨decodeBytes_badHeader_iff, decodeBytes_badFooter_iff,
    decodeBytes_lengthTooSmall_iff.trans (and_congr_right' (and_congr_right' lengthBelowTwo_and_footer_iff))⟩

/-- Settles O6: each clause is a row of DECODE after a good header, and ENCODE's length byte is the payload's and 2. -/
theorem reservedLengthsAreRejected : Obligations.ReservedLengthsAreRejected := by
  refine ⟨fun x => ?_, rfl, fun y x hy => ?_, fun x => ?_, fun c p hp => ?_⟩
  · exact (decodeBytes_of_header .late 0x00#8 x).trans (by simp [byteAt, footerByte])
  · exact (decodeBytes_of_header .late 0x01#8 (y :: x)).trans (by simp [byteAt, footerByte, hy])
  · exact (decodeBytes_of_header .late 0x01#8 (0xFA#8 :: x)).trans (by simp [byteAt, footerByte])
  · calc 2 ≤ p.length + 2 := Nat.le_add_left ..
      _ = ((encodePacket c p).getD 2 0#8).toNat := (toNat_lengthByte hp).symm

/-! ### O14: words of the frame table (30_encoding.md R50, R55; 95_test_vectors.md E1, E3, E7, V12) -/

/-- Settles O14 by running the decoder on the four words. -/
theorem writtenWordsDecode : Obligations.WrittenWordsDecode := by
  unfold Obligations.WrittenWordsDecode
  decide

end Sys2Proof

/-! ### O56: a placed word runs next (30_encoding.md R50; 40_codec.md R71) -/

namespace Sys2Proof.Machine

/-- Settles O56: the placed word is all of the buffer in AwaitDecode, and the host has nothing to issue. -/
theorem placedWordIsTheNextInstruction : Obligations.PlacedWordIsTheNextInstruction := by
  intro s nbits w i hword hlate
  have hframe : decodeInstr (s.withFetchWord nbits w).par.lenCheck (s.withFetchWord nbits w).buf = some i := by
    change decodeInstr s.par.lenCheck (tableBytes nbits w) = some i
    rw [hlate]
    exact hword
  exact step_of_engineInstr rfl (engineInstr_of_frame rfl hframe)

end Sys2Proof.Machine

/-! ### The four ways a byte sequence can begin (40_codec.md R71, steps 1 to 3) -/

namespace Sys2Proof

/-- A case split on the first bytes: too short, no header, a header alone, or a header and a length byte. -/
theorem headerCases {motive : Bytes → Prop} (short : ∀ b, b.length < 2 → motive b)
    (bad : ∀ b, 2 ≤ b.length → ¬(byteAt b 0 = headerByte ∧ byteAt b 1 = headerByte) → motive b)
    (bare : motive [headerByte, headerByte])
    (header : ∀ len rest, motive (headerByte :: headerByte :: len :: rest)) (b : Bytes) : motive b := by
  by_cases hheader : byteAt b 0 = headerByte ∧ byteAt b 1 = headerByte
  · match b, hheader with
    | [], _ => exact short _ (by decide)
    | [_], _ => exact short _ Nat.one_lt_two
    | [b0, b1], hheader =>
      obtain ⟨rfl, rfl⟩ : b0 = headerByte ∧ b1 = headerByte := hheader
      exact bare
    | b0 :: b1 :: len :: rest, hheader =>
      obtain ⟨rfl, rfl⟩ : b0 = headerByte ∧ b1 = headerByte := hheader
      exact header len rest
  · obtain hshort | hlen := Nat.lt_or_ge b.length 2
    · exact short b hshort
    · exact bad b hlen hheader

theorem decodeBytes_of_short {lc : LenCheck} {b : Bytes} (h : b.length < 2) : decodeBytes lc b = .incomplete :=
  if_pos h

theorem decodeBytes_bareHeader (lc : LenCheck) : decodeBytes lc [headerByte, headerByte] = .incomplete := rfl

theorem take_two_eq_header_iff {b : Bytes} :
    b.take 2 = [headerByte, headerByte] ↔ 2 ≤ b.length ∧ byteAt b 0 = headerByte ∧ byteAt b 1 = headerByte := by
  rcases b with - | ⟨b0, - | ⟨b1, rest⟩⟩ <;> simp [byteAt]

theorem byteAt_append_of_lt {b : Bytes} {i : Nat} (h : i < b.length) (x : Bytes) : byteAt (b ++ x) i = byteAt b i :=
  List.getD_append _ _ _ _ h

theorem decodeBytes_encodePacket (lc : LenCheck) (k : Byte) {p : Bytes} (hp : p.length ≤ maxPayload) :
    decodeBytes lc (encodePacket k p) = .complete { cmd := k, payload := p } (encodePacket k p).length := by
  simpa using decodeBytes_encodePacket_append lc k [] hp

/-! ### O1, O2: the frame table and the decision table (40_codec.md R70, R71) -/

namespace Machine

variable {s : State} {c : Byte} {p : Bytes}

theorem execEncode_of_fits (hp : p.length ≤ maxPayload) :
    execEncode c p s = .next (s.record (.hEncode c p (encodePacket c p))) :=
  if_pos (decide_eq_true hp)

theorem execEncode_of_oversize (hp : maxPayload < p.length) : execEncode c p s = .refused .encodeOversize :=
  if_neg (by simpa [payloadFits] using hp)

/-- Settles O1: the frame, its length byte and its length. -/
theorem encodeBuildsTheFrame : Obligations.EncodeBuildsTheFrame :=
  fun _ c p => ⟨fun hp => ⟨execEncode_of_fits hp, toNat_lengthByte hp, Laws.EncodedLength.encodePacket_length c p⟩,
    execEncode_of_oversize⟩

end Machine

/-- The seven rows of R71's decision table. -/
theorem decodeBytes_late_eq_table (b : Bytes) :
    decodeBytes .late b =
      if b.length < 2 then .incomplete
      else if b.take 2 ≠ [headerByte, headerByte] then .invalid .badHeader
      else if b.length = 2 then .incomplete
      else if b.length < 3 + (byteAt b 2).toNat then .incomplete
      else if byteAt b (2 + (byteAt b 2).toNat) ≠ footerByte then .invalid .badFooter
      else if (byteAt b 2).toNat < 2 then .invalid .lengthTooSmall
      else
        .complete { cmd := byteAt b 3, payload := (b.drop 4).take ((byteAt b 2).toNat - 2) }
          (3 + (byteAt b 2).toNat) := by
  unfold decodeBytes
  by_cases hshort : b.length < 2
  · simp only [if_pos hshort]
  · have hheader : byteAt b 0 ≠ headerByte ∨ byteAt b 1 ≠ headerByte ↔ b.take 2 ≠ [headerByte, headerByte] := by
      rw [← not_and_or, Ne, take_two_eq_header_iff, and_iff_right (not_lt.mp hshort)]
    have hbare : b.length < 3 ↔ b.length = 2 := by omega
    have hfooter : 3 + (byteAt b 2).toNat - 1 = 2 + (byteAt b 2).toNat := by omega
    simp only [hheader, hbare, hfooter, reduceCtorEq, false_and, if_false]

/-- Settles O2, by the decision table. -/
theorem decodeFollowsTheDecisionTable : Obligations.DecodeFollowsTheDecisionTable := by
  intro s b hlate
  change Machine.execDecode b s = _
  rw [Machine.execDecode, hlate, decodeBytes_late_eq_table]
  rfl

/-! ### O3: the two places of the length check (40_codec.md R71 corner case h; 92_eei_decisions.md D6) -/

/-- A good header with a length field below 2. -/
def SmallHeader (b : Bytes) : Prop := ∃ len rest, b = headerByte :: headerByte :: len :: rest ∧ len.toNat < 2

theorem smallHeader_iff {b : Bytes} :
    3 ≤ b.length ∧ b.take 2 = [headerByte, headerByte] ∧ (byteAt b 2).toNat < 2 ↔ SmallHeader b := by
  unfold SmallHeader
  rcases b with - | ⟨b0, - | ⟨b1, - | ⟨len, rest⟩⟩⟩ <;> simp [byteAt, and_assoc]

/-- R71, step 4a. -/
theorem decodeBytes_early_of_smallHeader {b : Bytes} (h : SmallHeader b) :
    decodeBytes .early b = .invalid .lengthTooSmall := by
  obtain ⟨len, rest, rfl, hlen⟩ := h
  exact (decodeBytes_of_header ..).trans (if_pos ⟨rfl, hlen⟩)

theorem decodeBytes_early_eq_late {b : Bytes} (h : ¬SmallHeader b) : decodeBytes .early b = decodeBytes .late b := by
  cases b using headerCases with
  | short b hshort => rw [decodeBytes_of_short hshort, decodeBytes_of_short hshort]
  | bad b hlen hbad => rw [decodeBytes_badHeader_iff.mpr ⟨hlen, hbad⟩, decodeBytes_badHeader_iff.mpr ⟨hlen, hbad⟩]
  | bare => rfl
  | header len rest =>
    have hlen : ¬len.toNat < 2 := fun hlen => h ⟨len, rest, rfl, hlen⟩
    simp only [decodeBytes_of_header, hlen, and_false, if_false]

/-- With a length field below 2 the late check still waits for a byte on one input only. -/
theorem decodeBytes_late_of_smallHeader {b : Bytes} (h : SmallHeader b) :
    (∃ r, decodeBytes .late b = .invalid r) ↔ b ≠ [headerByte, headerByte, 0x01#8] := by
  obtain ⟨len, rest, rfl, hlen⟩ := h
  have hshort : len = 0x01#8 ∧ rest = [] ↔ rest.length < len.toNat := by
    rw [← List.length_eq_zero_iff]
    bv_omega
  have hinput : headerByte :: headerByte :: len :: rest = [headerByte, headerByte, 0x01#8] ↔
      rest.length < len.toNat := by simpa using hshort
  rw [Ne, hinput, decodeBytes_of_header, if_neg (by simp), if_pos hlen]
  split_ifs with hshort <;> simp [hshort]

theorem Machine.verdictCode_eq_two_iff {v : Verdict} : verdictCode v = 2 ↔ ∃ r, v = .invalid r := by
  cases v <;> simp [verdictCode]

/-- Settles O3: where the two places of the check can differ, the early one answers Invalid. -/
theorem earlyLengthCheckDiffersOnlyThere : Obligations.EarlyLengthCheckDiffersOnlyThere := by
  refine ⟨fun s b hearly => ?_, fun b => ⟨fun h => ?_, fun h => ?_, ?_⟩⟩
  · rw [← hearly]
    rfl
  · exact decodeBytes_early_of_smallHeader (smallHeader_iff.mp h)
  · exact decodeBytes_early_eq_late (mt smallHeader_iff.mpr h)
  · by_cases h : SmallHeader b
    · rw [decodeBytes_early_of_smallHeader h, eq_comm]
      exact Machine.verdictCode_eq_two_iff.trans (decodeBytes_late_of_smallHeader h)
    · have hne : b ≠ [headerByte, headerByte, 0x01#8] := fun hb => h ⟨_, _, hb, by decide⟩
      exact iff_of_true (congrArg _ (decodeBytes_early_eq_late h)) hne

/-! ### O7, O9: added and missing bytes (40_codec.md R75, R77) -/

/-- A verdict other than Incomplete rests on bytes that are there. -/
theorem decodeBytes_append_of_ne_incomplete {lc : LenCheck} {b : Bytes} (x : Bytes)
    (h : decodeBytes lc b ≠ .incomplete) : decodeBytes lc (b ++ x) = decodeBytes lc b := by
  cases b using headerCases with
  | short b hshort => exact absurd (decodeBytes_of_short hshort) h
  | bad b hlen hbad =>
    have hlen' : 2 ≤ (b ++ x).length := hlen.trans (List.length_append ▸ Nat.le_add_right ..)
    have hbad' : ¬(byteAt (b ++ x) 0 = headerByte ∧ byteAt (b ++ x) 1 = headerByte) := by
      rwa [byteAt_append_of_lt (by omega), byteAt_append_of_lt (by omega)]
    rw [decodeBytes_badHeader_iff.mpr ⟨hlen, hbad⟩, decodeBytes_badHeader_iff.mpr ⟨hlen', hbad'⟩]
  | bare => exact absurd (decodeBytes_bareHeader lc) h
  | header len rest =>
    by_cases hsmall : lc = .early ∧ len.toNat < 2
    · simp only [List.cons_append, decodeBytes_of_header, if_pos hsmall]
    · have hall : ¬rest.length < len.toNat := fun hshort => h <| by
        rw [decodeBytes_of_header, if_neg hsmall, if_pos hshort]
      have hall' : ¬(rest ++ x).length < len.toNat := by rw [List.length_append]; omega
      have hfooter : byteAt (len :: (rest ++ x)) len.toNat = byteAt (len :: rest) len.toNat :=
        byteAt_append_of_lt (b := len :: rest) (by rw [List.length_cons]; omega) x
      simp only [List.cons_append, decodeBytes_of_header, if_neg hsmall, if_neg hall, if_neg hall', hfooter]
      by_cases hlen : len.toNat < 2
      · simp only [if_pos hlen]
      · rw [byteAt_append_of_lt (by omega), List.drop_append_of_le_length (by omega),
          List.take_append_of_le_length (by rw [List.length_drop]; omega)]

/-- Settles O7, by what a verdict rests on. -/
theorem verdictsAreStable : Obligations.VerdictsAreStable :=
  fun _ _ x h => decodeBytes_append_of_ne_incomplete x h

/-- Settles O9: otherwise the verdict on the part would be that of the whole frame, which is longer. -/
theorem cutFramesAreIncomplete : Obligations.CutFramesAreIncomplete := by
  intro lc k p n hp hn
  by_contra hpart
  have hstable := decodeBytes_append_of_ne_incomplete ((encodePacket k p).drop n) hpart
  rw [List.take_append_drop, decodeBytes_encodePacket lc k hp] at hstable
  obtain ⟨-, -, hlen, -⟩ := decodeBytes_complete_length hstable.symm
  rw [List.length_take] at hlen
  omega

/-! ### O8, O10, O11: encoded packets (30_encoding.md R62; 40_codec.md R76, R78, R79) -/

/-- Settles O8: ENCODE is injective, because DECODE undoes it. -/
theorem packetRoundTrip : Obligations.PacketRoundTrip := by
  refine ⟨fun lc k p hp => ?_, fun k k' p p' hp hp' h => ?_⟩
  · rw [decodeBytes_encodePacket lc k hp, Laws.EncodedLength.encodePacket_length]
  · have hsame := decodeBytes_encodePacket .late k hp
    rw [h, decodeBytes_encodePacket .late k' hp'] at hsame
    cases hsame
    exact ⟨rfl, rfl⟩

/-- Settles O10: each frame is decoded whatever follows it. -/
theorem concatenatedFramesDecodeInTurn : Obligations.ConcatenatedFramesDecodeInTurn := by
  intro lc a b garbage ha hb
  dsimp only
  rw [List.append_assoc, List.drop_left]
  exact ⟨decodeBytes_encodePacket_append lc a.cmd _ ha, decodeBytes_encodePacket_append lc b.cmd garbage hb⟩

/-- Settles O11: the header is no header, and the byte in the footer's place is the wrong one. -/
theorem badHeaderAndBadFooterAreInvalid : Obligations.BadHeaderAndBadFooterAreInvalid := by
  refine ⟨fun lc x => decodeBytes_badHeader_iff.mpr ⟨by simp, by simp [byteAt, headerByte]⟩, fun lc c p y hp hy => ?_⟩
  have hlast : byteAt (BitVec.ofNat 8 (p.length + 2) :: c :: (p ++ [y])) (p.length + 2) = y := by
    simp [byteAt]
  refine (decodeBytes_of_header lc _ (c :: (p ++ [y]))).trans ?_
  rw [toNat_lengthByte hp, hlast]
  simp [footerByte, hy]

/-! ### O13: a complete verdict is read from an encoded packet (30_encoding.md R51; 40_codec.md R71, R80) -/

/-- Encoding the packet of a complete verdict gives back the bytes it was read from. -/
theorem encodePacket_append_drop_of_complete {lc : LenCheck} {b : Bytes} {pkt : Packet} {n : Nat}
    (h : decodeBytes lc b = .complete pkt n) : b = encodePacket pkt.cmd pkt.payload ++ b.drop n := by
  obtain ⟨hmin, -, hlen, hpn⟩ := decodeBytes_complete_length h
  obtain ⟨h0, h1, -, hn, -, hfooter, hk, hp⟩ := decodeBytes_complete h
  obtain ⟨m, rfl⟩ := Nat.exists_eq_add_of_le' hmin
  match b, hlen with
  | b0 :: b1 :: len :: k :: rest, hlen =>
    obtain rfl : b0 = headerByte := h0
    obtain rfl : b1 = headerByte := h1
    obtain rfl : pkt.cmd = k := hk
    have hnat : len.toNat = m + 2 := by simp only [byteAt, List.getD_cons_succ, List.getD_cons_zero] at hn; omega
    have hlenByte : len = BitVec.ofNat 8 (pkt.payload.length + 2) := by
      rw [Nat.add_right_cancel hpn, ← hnat, BitVec.ofNat_toNat, BitVec.setWidth_eq]
    have hm : m < rest.length := by simp only [List.length_cons] at hlen; omega
    have hpayload : pkt.payload = rest.take m := by simpa [byteAt, hnat] using hp
    have hat : rest[m] = footerByte := by simpa [byteAt, List.getElem?_eq_getElem hm] using hfooter
    have hrest : rest = pkt.payload ++ footerByte :: rest.drop (m + 1) := by
      rw [hpayload, ← hat, ← List.drop_eq_getElem_cons, List.take_append_drop]
    simpa [encodePacket, ← hlenByte] using hrest

theorem encodeInstr_packetInstr (pkt : Packet) :
    encodeInstr (packetInstr pkt) = some (encodePacket pkt.cmd pkt.payload) := by
  by_cases hcmd : pkt.cmd = getAnglesOpcode
  · rw [packetInstr, if_pos hcmd, hcmd]
    rfl
  · rw [packetInstr, if_neg hcmd]
    rfl

theorem wellFormed_packetInstr {pkt : Packet} (hp : pkt.payload.length ≤ maxPayload) :
    (packetInstr pkt).wellFormed = true := by
  by_cases hcmd : pkt.cmd = getAnglesOpcode
  · simp [packetInstr, Instr.wellFormed, hcmd, hp]
  · simp [packetInstr, Instr.wellFormed, hcmd, hp]

theorem decodeInstrRest_eq_some_iff {lc : LenCheck} {b x : Bytes} {i : Instr} :
    decodeInstrRest lc b = some (i, x) ↔
      ∃ pkt n, decodeBytes lc b = .complete pkt n ∧ packetInstr pkt = i ∧ b.drop n = x := by
  unfold decodeInstrRest
  cases decodeBytes lc b <;> simp

theorem payload_le_of_complete {lc : LenCheck} {b : Bytes} {pkt : Packet} {n : Nat}
    (h : decodeBytes lc b = .complete pkt n) : pkt.payload.length ≤ maxPayload := by
  obtain ⟨-, hmax, -, hpn⟩ := decodeBytes_complete_length h
  exact Nat.le_of_add_le_add_right (hpn.trans_le hmax)

/-- Settles O13: the instruction is a complete packet's, and the bytes are its encoding. -/
theorem decodedInstrReencodes : Obligations.DecodedInstrReencodes := by
  intro lc b x i h
  obtain ⟨pkt, n, hcomplete, rfl, rfl⟩ := decodeInstrRest_eq_some_iff.mp h
  exact ⟨wellFormed_packetInstr (payload_le_of_complete hcomplete), _, encodeInstr_packetInstr pkt,
    encodePacket_append_drop_of_complete hcomplete⟩

/-! ### O4: which inputs have which verdict (40_codec.md R80) -/

/-- DECODE is complete exactly on an encoded packet and what follows it. -/
theorem decodeBytes_complete_iff {lc : LenCheck} {b : Bytes} {pkt : Packet} {n : Nat} :
    decodeBytes lc b = .complete pkt n ↔
      pkt.payload.length ≤ maxPayload ∧ n = pkt.payload.length + 5 ∧ ∃ x, b = encodePacket pkt.cmd pkt.payload ++ x := by
  constructor
  · intro h
    obtain ⟨-, -, -, hpn⟩ := decodeBytes_complete_length h
    exact ⟨payload_le_of_complete h, hpn.symm, _, encodePacket_append_drop_of_complete h⟩
  · rintro ⟨hp, rfl, x, rfl⟩
    rw [decodeBytes_encodePacket_append lc pkt.cmd x hp, Laws.EncodedLength.encodePacket_length]

/-- The payload lies between the first four bytes and the footer. -/
theorem take_drop_eq_payload (b : Bytes) (len : Nat) : (b.take (3 + len - 1)).drop 4 = (b.drop 4).take (len - 2) := by
  rw [List.drop_take]
  congr 1
  omega

/-- R71, last row, for the late check: what a complete verdict rests on is enough for it. -/
theorem decodeBytes_late_eq_complete {b : Bytes} (h0 : byteAt b 0 = headerByte) (h1 : byteAt b 1 = headerByte)
    (hL : 2 ≤ (byteAt b 2).toNat) (hlen : 3 + (byteAt b 2).toNat ≤ b.length)
    (hfooter : byteAt b (3 + (byteAt b 2).toNat - 1) = footerByte) :
    decodeBytes .late b =
      .complete { cmd := byteAt b 3, payload := (b.drop 4).take ((byteAt b 2).toNat - 2) } (3 + (byteAt b 2).toNat) := by
  unfold decodeBytes
  rw [if_neg (by omega), if_neg (by simp [h0, h1]), if_neg (by omega), if_neg (by simp), if_neg (by omega),
    if_neg (not_not.mpr hfooter), if_neg (by omega)]

/-- R71 after a good header, with the late check: the bytes the length field counts are not all there. -/
theorem decodeBytes_late_incomplete_iff_of_header (len : Byte) (rest : Bytes) :
    decodeBytes .late (headerByte :: headerByte :: len :: rest) = .incomplete ↔ rest.length < len.toNat := by
  rw [decodeBytes_of_header, if_neg (by simp)]
  split_ifs with hshort <;> simp [hshort]

theorem decodeBytes_late_incomplete_iff {b : Bytes} :
    decodeBytes .late b = .incomplete ↔
      b.length ≤ 1 ∨
        2 ≤ b.length ∧ byteAt b 0 = headerByte ∧ byteAt b 1 = headerByte ∧
          (b.length = 2 ∨ b.length < 3 + (byteAt b 2).toNat) := by
  cases b using headerCases with
  | short b hshort => exact iff_of_true (decodeBytes_of_short hshort) (.inl (Nat.le_of_lt_succ hshort))
  | bad b hlen hbad =>
    rw [decodeBytes_badHeader_iff.mpr ⟨hlen, hbad⟩]
    refine iff_of_false nofun ?_
    rintro (hshort | ⟨-, h0, h1, -⟩)
    · omega
    · exact hbad ⟨h0, h1⟩
  | bare => exact iff_of_true rfl (.inr ⟨le_rfl, rfl, rfl, .inl rfl⟩)
  | header len rest =>
    rw [decodeBytes_late_incomplete_iff_of_header]
    simp only [byteAt, List.length_cons, List.getD_cons_succ, List.getD_cons_zero, true_and]
    omega

/-- Settles O4: R80's list for each verdict, and Complete in terms of ENCODE. -/
theorem verdictsAreCharacterised : Obligations.VerdictsAreCharacterised := by
  refine ⟨fun b k p t => ⟨fun h => ?_, ?_⟩, fun _ _ _ _ => decodeBytes_complete_iff,
    fun _ => decodeBytes_late_incomplete_iff, fun b => ?_⟩
  · obtain ⟨hmin, -, hlen, -⟩ := decodeBytes_complete_length h
    obtain ⟨h0, h1, hL, rfl, -, hfooter, hk, hp⟩ := decodeBytes_complete h
    exact ⟨hmin.trans hlen, h0, h1, hL, rfl, hlen, hfooter, hk, hp.trans (take_drop_eq_payload ..).symm⟩
  · rintro ⟨-, h0, h1, hL, rfl, hlen, hfooter, rfl, rfl⟩
    exact (decodeBytes_late_eq_complete h0 h1 hL hlen hfooter).trans (by rw [← take_drop_eq_payload]; rfl)
  · cases decodeBytes .late b <;> simp

end Sys2Proof

/-! ### O16, O17: the registry's table (40_codec.md R72, R73; 93_implementation_defined.md U7) -/

namespace Sys2Proof.Machine

/-- In a list whose keys are all different a search by key finds the one entry that has the key. -/
theorem find?_key_eq_some_iff {α β : Type} [BEq β] [LawfulBEq β] {key : α → β} {l : List α} (hkeys : (l.map key).Nodup)
    {k : β} {a : α} : (l.find? fun x => key x == k) = some a ↔ a ∈ l ∧ key a = k := by
  constructor
  · intro h
    exact ⟨List.mem_of_find?_eq_some h, eq_of_beq (List.find?_some h :)⟩
  · rintro ⟨hmem, rfl⟩
    have hsome : (l.find? fun x => key x == key a).isSome :=
      List.find?_isSome.mpr ⟨a, hmem, beq_self_eq_true (key a)⟩
    obtain ⟨found, hfound⟩ := Option.isSome_iff_exists.mp hsome
    have hkey : key found = key a := eq_of_beq (List.find?_some hfound :)
    rw [hfound, List.inj_on_of_nodup_map hkeys (List.mem_of_find?_eq_some hfound) hmem hkey]

section Table

variable {known : List (CommandName × Byte)} {name : CommandName} {b : Byte}

theorem mem_opcodes_iff : b ∈ known.map Prod.snd ↔ ∃ name, (name, b) ∈ known := by
  simp

theorem opcodeOfName_of_mem (hnames : (known.map Prod.fst).Nodup) (h : (name, b) ∈ known) :
    opcodeOfName known name = b := by
  rw [opcodeOfName, (find?_key_eq_some_iff hnames).mpr ⟨h, rfl⟩]

theorem commandOfByte_of_mem (hopcodes : (known.map Prod.snd).Nodup) (h : (name, b) ∈ known) :
    commandOfByte known b = .known name := by
  rw [commandOfByte, (find?_key_eq_some_iff hopcodes).mpr ⟨h, rfl⟩]

theorem commandOfByte_of_not_mem (h : ∀ name, (name, b) ∉ known) : commandOfByte known b = .unknown b := by
  have hnone : (known.find? fun entry => entry.2 == b) = none :=
    List.find?_eq_none.mpr fun entry hentry hb => h entry.1 (eq_of_beq hb ▸ hentry)
  rw [commandOfByte, hnone]

theorem opcodeOfCommand_unknown_of_mem (h : (name, b) ∈ known) : opcodeOfCommand known (.unknown b) = none :=
  if_pos (mem_opcodes_iff.mpr ⟨name, h⟩)

theorem opcodeOfCommand_unknown_of_not_mem (h : ∀ name, (name, b) ∉ known) :
    opcodeOfCommand known (.unknown b) = some b :=
  if_neg (mt mem_opcodes_iff.mp (not_exists.mpr h))

theorem opcodeOfCommand_known_of_mem (hnames : (known.map Prod.fst).Nodup) (h : (name, b) ∈ known) :
    opcodeOfCommand known (.known name) = some b :=
  congrArg some (opcodeOfName_of_mem hnames h)

/-- R73: `COMMAND_OF` answers with the table's name exactly when there is one. -/
theorem commandOfByte_eq_known_iff (hopcodes : (known.map Prod.snd).Nodup) :
    commandOfByte known b = .known name ↔ (name, b) ∈ known := by
  refine ⟨fun h => ?_, commandOfByte_of_mem hopcodes⟩
  by_cases hmem : ∃ name, (name, b) ∈ known
  · obtain ⟨name', hname'⟩ := hmem
    rw [commandOfByte_of_mem hopcodes hname', Command.known.injEq] at h
    exact h ▸ hname'
  · rw [commandOfByte_of_not_mem (not_exists.mp hmem)] at h
    cases h

theorem commandOfByte_eq_unknown_iff (hopcodes : (known.map Prod.snd).Nodup) :
    commandOfByte known b = .unknown b ↔ ∀ name, (name, b) ∉ known := by
  refine ⟨fun h name hmem => ?_, commandOfByte_of_not_mem⟩
  rw [commandOfByte_of_mem hopcodes hmem] at h
  cases h

/-- R73: OPCODE_OF undoes COMMAND_OF. -/
theorem opcodeOfCommand_commandOfByte (hnames : (known.map Prod.fst).Nodup) (hopcodes : (known.map Prod.snd).Nodup)
    (b : Byte) : opcodeOfCommand known (commandOfByte known b) = some b := by
  by_cases hmem : ∃ name, (name, b) ∈ known
  · obtain ⟨name, hname⟩ := hmem
    rw [commandOfByte_of_mem hopcodes hname]
    exact opcodeOfCommand_known_of_mem hnames hname
  · rw [commandOfByte_of_not_mem (not_exists.mp hmem)]
    exact opcodeOfCommand_unknown_of_not_mem (not_exists.mp hmem)

end Table

section Operations

variable {s t : State} {command : Command} {b : Byte}

theorem execOpcodeOf_of_some (h : opcodeOfCommand s.par.known command = some b) :
    execOpcodeOf command s = .next (s.record (.opcodeOf command b)) := by
  rw [execOpcodeOf, h]

theorem execOpcodeOf_of_none (h : opcodeOfCommand s.par.known command = none) :
    execOpcodeOf command s = .refused .unknownOfKnown := by
  rw [execOpcodeOf, h]

/-- Settles O16, by what COMMAND_OF answers for a byte with and without a name. -/
theorem commandOfReadsTheTable : Obligations.CommandOfReadsTheTable := by
  intro s b hwf
  exact ⟨commandOfByte s.par.known b, rfl, fun _ => commandOfByte_eq_known_iff hwf.opcodes,
    commandOfByte_eq_unknown_iff hwf.opcodes, opcodeOfCommand_commandOfByte hwf.names hwf.opcodes b,
    fun _ => commandOfByte_of_mem hwf.opcodes⟩

/-- Settles O17, by the byte OPCODE_OF has for each command. -/
theorem opcodeOfReadsTheTable : Obligations.OpcodeOfReadsTheTable := by
  intro s hwf
  refine ⟨fun name b h => ?_, fun b h => ?_, fun name b h => ?_, fun b c h => ?_, ?_⟩
  · exact execOpcodeOf_of_some (opcodeOfCommand_known_of_mem hwf.names h)
  · exact execOpcodeOf_of_some (opcodeOfCommand_unknown_of_not_mem h)
  · exact execOpcodeOf_of_none (opcodeOfCommand_unknown_of_mem h)
  · obtain rfl : commandOfByte s.par.known b = c := by simpa [exec, execCommandOf, State.record] using h
    exact execOpcodeOf_of_some (opcodeOfCommand_commandOfByte hwf.names hwf.opcodes b)
  · exact execOpcodeOf_of_some (opcodeOfCommand_known_of_mem hwf.names hwf.getAngles)

/-! ### O15: the codec and the registry are pure (10_state.md R23; 40_codec.md R72, R73, R74) -/

/-- The record an operation of the codec or the registry leaves at its port, from its operands and the parameters alone;
none where it is refused, and for every other instruction. -/
def codecRecord (par : Params) : Instr → Option Transaction
  | .encode c p => if p.length ≤ maxPayload then some (.hEncode c p (encodePacket c p)) else none
  | .decode b => some (.hDecode b (decodeBytes par.lenCheck b))
  | .opcodeOf command => (opcodeOfCommand par.known command).map (.opcodeOf command)
  | .commandOf b => some (.commandOf b (commandOfByte par.known b))
  | _ => none

/-- The operations of the codec and the registry. -/
def CodecInstr (i : Instr) : Prop :=
  (∃ c p, i = .encode c p) ∨ (∃ b, i = .decode b) ∨ (∃ c, i = .opcodeOf c) ∨ ∃ b, i = .commandOf b

/-- R23, R74: in every phase such an operation adds its record and does nothing else. -/
theorem exec_eq_next_iff_of_codecInstr {i : Instr} (hi : CodecInstr i) :
    exec i s = .next t ↔ ∃ tr, codecRecord s.par i = some tr ∧ s.record tr = t := by
  obtain ⟨c, p, rfl⟩ | ⟨b, rfl⟩ | ⟨command, rfl⟩ | ⟨b, rfl⟩ := hi
  · by_cases hp : p.length ≤ maxPayload
    · simp [exec, codecRecord, execEncode_of_fits hp, hp]
    · simp [exec, codecRecord, execEncode_of_oversize (not_le.mp hp), hp]
  · simp [exec, codecRecord, execDecode]
  · cases hb : opcodeOfCommand s.par.known command with
    | some b => simp [exec, codecRecord, execOpcodeOf_of_some hb, hb]
    | none => simp [exec, codecRecord, execOpcodeOf_of_none hb, hb]
  · simp [exec, codecRecord, execCommandOf]

/-- Settles O15: the record is a function of the instruction and the parameters. -/
theorem codecOperationsArePure : Obligations.CodecOperationsArePure := by
  refine ⟨fun i s s' t hi hpar h => ?_, fun s b => ⟨_, rfl⟩, fun s c p hp => ⟨_, execEncode_of_fits hp⟩,
    fun s name => ⟨_, (execOpcodeOf_of_some rfl : execOpcodeOf (.known name) s = _)⟩⟩
  obtain ⟨tr, hrecord, rfl⟩ := (exec_eq_next_iff_of_codecInstr hi).mp h
  exact ⟨tr, rfl, (exec_eq_next_iff_of_codecInstr hi).mpr ⟨tr, hpar ▸ hrecord, rfl⟩⟩

end Operations

end Sys2Proof.Machine

/-! ### O50: `scan` and the bytes that are still to come (41_exchange_engine.md R109, R111) -/

namespace Sys2Proof.Machine

section Scan

variable {lc : LenCheck} {k : Byte} {b : Bytes} {pkt : Packet} {n : Nat} {r : Reason}

/-- R75, R109: a dropped byte is dropped whatever follows. -/
theorem scan_append_of_invalid (h : decodeBytes lc b = .invalid r) (x : Bytes) :
    scan lc k (b ++ x) = scan lc k (b.drop 1 ++ x) := by
  have hlen := decodeBytes_invalid_length h
  have hx : decodeBytes lc (b ++ x) = .invalid r := (decodeBytes_append_of_ne_incomplete x (by simp [h])).trans h
  rw [scan_invalid hx, List.drop_append_of_le_length (by omega)]

/-- R75, R109: a frame with the request's opcode is found whatever follows. -/
theorem scan_append_of_match (h : decodeBytes lc b = .complete pkt n) (hk : pkt.cmd = k) (x : Bytes) :
    scan lc k (b ++ x) = .found pkt.payload :=
  scan_match ((decodeBytes_append_of_ne_incomplete x (by simp [h])).trans h) hk

/-- R75, R111: a frame with another opcode is skipped whatever follows. -/
theorem scan_append_of_mismatch (h : decodeBytes lc b = .complete pkt n) (hk : pkt.cmd ≠ k) (x : Bytes) :
    scan lc k (b ++ x) = scan lc k (b.drop n ++ x) := by
  obtain ⟨-, -, hlen, -⟩ := decodeBytes_complete_length h
  have hx : decodeBytes lc (b ++ x) = .complete pkt n :=
    (decodeBytes_append_of_ne_incomplete x (by simp [h])).trans h
  rw [scan_mismatch hx hk, List.drop_append_of_le_length hlen]

/-- R109: what has been found stays found. -/
theorem scan_append_of_found {p : Bytes} (x : Bytes) (h : scan lc k b = .found p) :
    scan lc k (b ++ x) = .found p := by
  induction hlen : b.length using Nat.strong_induction_on generalizing b with
  | _ m ih =>
    subst hlen
    cases hd : decodeBytes lc b with
    | incomplete => rw [scan_incomplete hd] at h; cases h
    | invalid r =>
      have hmin := decodeBytes_invalid_length hd
      rw [scan_append_of_invalid hd]
      exact ih _ (by rw [List.length_drop]; omega) (scan_invalid hd ▸ h) rfl
    | complete pkt n =>
      obtain ⟨hmin, -, hmax, -⟩ := decodeBytes_complete_length hd
      by_cases hk : pkt.cmd = k
      · rw [scan_append_of_match hd hk, ← scan_match hd hk, h]
      · rw [scan_append_of_mismatch hd hk]
        exact ih _ (by rw [List.length_drop]; omega) (scan_mismatch hd hk ▸ h) rfl

end Scan

/-- Settles O50, by the branches of `scan` and the stability of DECODE's verdicts. -/
theorem scanIsMonotoneAndSkipsMismatches : Obligations.ScanIsMonotoneAndSkipsMismatches := by
  refine ⟨fun _ _ _ x _ => scan_append_of_found x, fun lc k c p q x hp hq hck => ?_, fun lc k b r hinvalid => ?_⟩
  · rw [List.append_assoc, scan_append_of_mismatch (decodeBytes_encodePacket lc c hp) hck, List.drop_length,
      List.nil_append, scan_append_of_match (decodeBytes_encodePacket lc k hq) rfl]
  · rw [scan_invalid hinvalid, List.drop_one]

/-! ### O54: every step keeps the account of the received stream (41_exchange_engine.md R109) -/

variable {s t : State}

/-- R109: `scan` has found nothing in the bytes already removed, so they do not change what it will find. -/
def State.ScanAccount (s : State) : Prop :=
  ∀ x, scan s.par.lenCheck s.reqCmd (s.rx ++ x) = scan s.par.lenCheck s.reqCmd (s.buf ++ x)

theorem State.ScanAccount.scanned (hs : s.ScanAccount) (hphase : s.phase ≠ .done) : s.Scanned where
  running := fun _ => hs
  found := fun _ hdone => absurd hdone hphase

theorem State.scanned_of_idle (hphase : s.phase = .idle) : s.Scanned where
  running := by simp [hphase, Phase.inCall]
  found := by simp [hphase]

/-- A call that ends without a payload has nothing to account for. -/
theorem State.scanned_of_done (hphase : s.phase = .done) (hresult : ∀ p, s.result ≠ .ok p) : s.Scanned where
  running := by simp [hphase, Phase.inCall]
  found := fun p _ hp => absurd hp (hresult p)

theorem State.scanned_finish_ioFailed (s : State) (e : IoCause) : (s.finish (.ioFailed e)).Scanned :=
  State.scanned_of_done rfl (by simp)

/-- R97: delivered bytes join the buffer and the received bytes alike. -/
theorem State.ScanAccount.bufAppend (hs : s.ScanAccount) (bs : Bytes) : (s.bufAppend bs).ScanAccount := by
  intro x
  simpa using hs (bs ++ x)

/-- R101 to R103: a frame that is removed is the one `scan` finds, or one it skips. -/
theorem State.ScanAccount.takeFrame (hs : s.ScanAccount) {pkt : Packet} {n : Nat}
    (hverdict : s.verdict = .complete pkt n) : (s.takeFrame pkt n).Scanned := by
  obtain ⟨hcmd, ht⟩ | ⟨hcmd, ht⟩ := s.takeFrame_cases pkt n <;> rw [ht]
  · refine ⟨nofun, ?_⟩
    rintro p - ⟨⟩
    simpa using (hs []).trans (scan_append_of_match hverdict hcmd [])
  · exact State.ScanAccount.scanned (fun x => (hs x).trans (scan_append_of_mismatch hverdict hcmd x)) nofun

theorem execXeCall_keeps_scan {cmd : Byte} {payload : Bytes} {timeout : Time}
    (h : execXeCall cmd payload timeout s = .next t) : t.Scanned := by
  obtain ⟨-, ⟨-, rfl⟩ | ⟨-, rfl⟩⟩ := execXeCall_next h
  · exact State.ScanAccount.scanned (fun x => by simp) (by simp)
  · exact State.scanned_of_done rfl nofun

theorem execXeWrite_keeps_scan (hs : s.ScanAccount) (h : execXeWrite s = .next t) : t.Scanned := by
  obtain ⟨-, -, -, ⟨-, rfl⟩ | ⟨e, -, -, rfl⟩⟩ := execXeWrite_next h
  · exact State.ScanAccount.scanned hs nofun
  · exact State.scanned_finish_ioFailed _ e

theorem execXeFlush_keeps_scan (hs : s.ScanAccount) (h : execXeFlush s = .next t) : t.Scanned := by
  obtain ⟨-, -, ⟨-, rfl⟩ | ⟨e, -, rfl⟩⟩ := execXeFlush_next h
  · exact State.ScanAccount.scanned (by simpa [State.ScanAccount] using hs) (by simp)
  · exact State.scanned_finish_ioFailed _ e

theorem execXeEnter_keeps_scan (hs : s.ScanAccount) (h : execXeEnter s = .next t) : t.Scanned := by
  obtain ⟨-, rfl⟩ := execXeEnter_next h
  exact State.ScanAccount.scanned hs nofun

theorem execXeCheck_keeps_scan (hs : s.ScanAccount) (h : execXeCheck s = .next t) : t.Scanned := by
  obtain ⟨-, ⟨-, rfl⟩ | ⟨-, rfl⟩⟩ := execXeCheck_next h
  · exact State.scanned_of_done rfl nofun
  · exact State.ScanAccount.scanned hs nofun

theorem execXeRead_keeps_scan (hs : s.ScanAccount) (h : execXeRead s = .next t) : t.Scanned := by
  have hread : (s.issueRead s.par.rdMax).ScanAccount := hs
  obtain ⟨-, -, ⟨bs, -, -, -, rfl⟩ | ⟨-, rfl⟩ | ⟨-, rfl⟩ | ⟨e, -, rfl⟩⟩ := execXeRead_next h
  · exact State.ScanAccount.scanned (hread.bufAppend bs) nofun
  · exact State.ScanAccount.scanned hread nofun
  · obtain ht | ⟨e, ht⟩ := (s.issueRead s.par.rdMax).endOfStream_cases <;> rw [ht]
    · exact State.ScanAccount.scanned hread nofun
    · exact State.scanned_finish_ioFailed _ e
  · exact State.scanned_finish_ioFailed _ e

theorem execXeWait_keeps_scan (hs : s.ScanAccount) (h : execXeWait s = .next t) : t.Scanned := by
  obtain ⟨hphase, ⟨-, rfl⟩ | ⟨-, rfl⟩⟩ := execXeWait_next h
  · exact State.ScanAccount.scanned hs nofun
  · exact State.ScanAccount.scanned (s := s.look) hs (by simp [hphase])

theorem execXeDecode_keeps_scan (hs : s.ScanAccount) (h : execXeDecode s = .next t) : t.Scanned := by
  obtain ⟨-, ⟨-, rfl⟩ | ⟨_, hverdict, rfl⟩ | ⟨_, _, hverdict, rfl⟩⟩ := execXeDecode_next h
  · exact State.ScanAccount.scanned hs nofun
  · exact State.ScanAccount.scanned (fun x => (hs x).trans (scan_append_of_invalid hverdict x)) nofun
  · exact hs.takeFrame hverdict

theorem microStep_keeps_scan (hs : s.Scanned) (h : microStep s = .next t) : t.Scanned := by
  have hrun : s.phase.inCall = true → s.ScanAccount := hs.running
  cases hp : s.phase <;> simp only [microStep, hp] at h <;> rw [hp] at hrun
  case idle => cases h; exact hs
  case sendWrite => exact execXeWrite_keeps_scan (hrun rfl) h
  case sendFlush => exact execXeFlush_keeps_scan (hrun rfl) h
  case sent => exact execXeEnter_keeps_scan (hrun rfl) h
  case awaitCheck => exact execXeCheck_keeps_scan (hrun rfl) h
  case awaitRead => exact execXeRead_keeps_scan (hrun rfl) h
  case awaitWait => exact execXeWait_keeps_scan (hrun rfl) h
  case awaitDecode => exact execXeDecode_keeps_scan (hrun rfl) h
  case done =>
    obtain ⟨-, rfl⟩ := execXeReturn_next h
    exact State.scanned_of_idle rfl

/-- Settles O54: a call begins with nothing received, every micro-operation keeps the account, and nothing else touches
it. -/
theorem stepKeepsTheScan : Obligations.StepKeepsTheScan :=
  fun _ _ hs h =>
    step_induct (P := State.Scanned) (fun _ _ hu => ⟨hu.running, hu.found⟩) (fun _ _ hu _ _ => ⟨hu.running, hu.found⟩)
      (fun _ _ _ _ _ _ => execXeCall_keeps_scan) (fun _ _ => microStep_keeps_scan) hs h

end Sys2Proof.Machine

/-! ### What each micro-operation does in its phase (41_exchange_engine.md R91 to R107) -/

namespace Sys2Proof.Machine

section MicroOperations

variable {s : State} {c : Byte} {p : Bytes} {timeout : Time}

theorem execXeCall_of_fits (hp : s.phase = .idle) (hlen : p.length ≤ maxPayload) :
    execXeCall c p timeout s = .next ((s.record (.hCall c p timeout)).acceptCall c p timeout) := by
  simp [execXeCall, hp, payloadFits, hlen]

theorem execXeCall_of_oversize (hp : s.phase = .idle) (hlen : maxPayload < p.length) :
    execXeCall c p timeout s =
      .next { s.record (.hCall c p timeout) with result := .invalidParameter, phase := .done } := by
  simp [execXeCall, hp, payloadFits, hlen]

theorem execXeCall_of_busy (hp : s.phase ≠ .idle) : execXeCall c p timeout s = .refused .notReentrant := if_pos hp

theorem execXeWrite_of_ok (hp : s.phase = .sendWrite) (hlen : s.reqPayload.length ≤ maxPayload)
    (hmute : s.env.mute = false) (ha : s.env.writeAnswer = .ok) :
    execXeWrite s = .next { s.issueWrite (encodePacket s.reqCmd s.reqPayload) with phase := .sendFlush } := by
  simp [execXeWrite, hp, payloadFits, hlen, hmute, ha]

theorem execXeWrite_of_fail {e : IoCause} {n : Nat} (hp : s.phase = .sendWrite)
    (hlen : s.reqPayload.length ≤ maxPayload) (hmute : s.env.mute = false) (ha : s.env.writeAnswer = .fail e n) :
    execXeWrite s = .next ((s.issueWrite (encodePacket s.reqCmd s.reqPayload)).finish (.ioFailed e)) := by
  simp [execXeWrite, hp, payloadFits, hlen, hmute, ha]

theorem execXeWrite_of_mute (hp : s.phase = .sendWrite) (hlen : s.reqPayload.length ≤ maxPayload)
    (hmute : s.env.mute = true) : execXeWrite s = .fault .transportNeverAnswers := by
  simp [execXeWrite, hp, payloadFits, hlen, hmute]

theorem execXeFlush_of_ok (hp : s.phase = .sendFlush) (hmute : s.env.mute = false) (ha : s.env.flushAnswer = .ok) :
    execXeFlush s = .next s.issueFlush.requestSent := by
  simp [execXeFlush, hp, hmute, ha]

theorem execXeFlush_of_fail {e : IoCause} (hp : s.phase = .sendFlush) (hmute : s.env.mute = false)
    (ha : s.env.flushAnswer = .fail e) : execXeFlush s = .next (s.issueFlush.finish (.ioFailed e)) := by
  simp [execXeFlush, hp, hmute, ha]

theorem execXeEnter_of_sent (hp : s.phase = .sent) : execXeEnter s = .next { s with phase := .awaitCheck } :=
  if_neg (not_not.mpr hp)

theorem execXeCheck_of_reached (hp : s.phase = .awaitCheck) (hnow : s.deadline ≤ s.env.nextNow) :
    execXeCheck s = .next (s.look.finish .timedOut) := by
  simp [execXeCheck, hp, State.deadlineReached, hnow]

theorem execXeCheck_of_before (hp : s.phase = .awaitCheck) (hnow : s.env.nextNow < s.deadline) :
    execXeCheck s = .next { s.look with phase := .awaitRead } := by
  simp [execXeCheck, hp, State.deadlineReached, hnow]

theorem execXeRead_of_mute (hp : s.phase = .awaitRead) (hmute : s.env.mute = true) :
    execXeRead s = .fault .transportNeverAnswers := by
  simp [execXeRead, hp, hmute]

theorem execXeRead_of_outsideTypes {a : ReadAnswer} (hp : s.phase = .awaitRead) (hmute : s.env.mute = false)
    (ha : s.env.readAnswer s.par.rdMax = a) (htypes : answerInTypes s.par.rdMax a = false) :
    execXeRead s = .refused .answerOutsideTypes := by
  simp [execXeRead, hp, hmute, ha, htypes]

theorem answerInTypes_data_iff {max : Nat} {bs : Bytes} :
    answerInTypes max (.data bs) = true ↔ 1 ≤ bs.length ∧ bs.length ≤ max := by
  simp only [answerInTypes, Bool.and_eq_true, decide_eq_true_eq]

theorem execXeRead_of_data {bs : Bytes} (hp : s.phase = .awaitRead) (hmute : s.env.mute = false)
    (ha : s.env.readAnswer s.par.rdMax = .data bs) (hlen : 1 ≤ bs.length ∧ bs.length ≤ s.par.rdMax) :
    execXeRead s = .next { (s.issueRead s.par.rdMax).bufAppend bs with phase := .awaitDecode } := by
  simp [execXeRead, hp, hmute, ha, answerInTypes_data_iff.mpr hlen]

theorem execXeRead_of_noData (hp : s.phase = .awaitRead) (hmute : s.env.mute = false)
    (ha : s.env.readAnswer s.par.rdMax = .noData) : execXeRead s = .next (s.issueRead s.par.rdMax).armWait := by
  simp [execXeRead, hp, hmute, ha, answerInTypes]

theorem execXeRead_of_eos (hp : s.phase = .awaitRead) (hmute : s.env.mute = false)
    (ha : s.env.readAnswer s.par.rdMax = .eos) : execXeRead s = .next (s.issueRead s.par.rdMax).endOfStream := by
  simp [execXeRead, hp, hmute, ha, answerInTypes]

theorem execXeRead_of_fatal {e : IoCause} (hp : s.phase = .awaitRead) (hmute : s.env.mute = false)
    (ha : s.env.readAnswer s.par.rdMax = .fatal e) :
    execXeRead s = .next ((s.issueRead s.par.rdMax).finish (.ioFailed e)) := by
  simp [execXeRead, hp, hmute, ha, answerInTypes]

/-- R126: under `as_no_data` an end-of-stream is what no data is. -/
theorem State.endOfStream_of_asNoData (hpolicy : s.par.eosPolicy = .asNoData) : s.endOfStream = s.armWait := by
  simp [State.endOfStream, hpolicy]

theorem execXeWait_of_over (hp : s.phase = .awaitWait) (hnow : s.waitUntil ≤ s.env.nextNow) :
    execXeWait s = .next { s.look with phase := .awaitCheck } := by
  simp [execXeWait, hp, State.waitOver, hnow]

theorem execXeWait_of_held (hp : s.phase = .awaitWait) (hnow : s.env.nextNow < s.waitUntil) :
    execXeWait s = .next s.look := by
  simp [execXeWait, hp, State.waitOver, hnow]

theorem execXeDecode_of_incomplete (hp : s.phase = .awaitDecode) (hverdict : s.verdict = .incomplete) :
    execXeDecode s = .next { s with phase := .awaitCheck } := by
  simp [execXeDecode, hp, hverdict]

theorem execXeDecode_of_invalid {r : Reason} (hp : s.phase = .awaitDecode) (hverdict : s.verdict = .invalid r) :
    execXeDecode s = .next (s.bufDrop 1) := by
  simp [execXeDecode, hp, hverdict, State.bufDrop]

theorem execXeDecode_of_match {pkt : Packet} {n : Nat} (hp : s.phase = .awaitDecode)
    (hverdict : s.verdict = .complete pkt n) (hcmd : pkt.cmd = s.reqCmd) :
    execXeDecode s = .next ((s.bufDrop n).finish (.ok pkt.payload)) := by
  simp [execXeDecode, hp, hverdict, State.takeFrame, State.matchBit, hcmd]

theorem execXeDecode_of_mismatch {pkt : Packet} {n : Nat} (hp : s.phase = .awaitDecode)
    (hverdict : s.verdict = .complete pkt n) (hcmd : pkt.cmd ≠ s.reqCmd) :
    execXeDecode s = .next (s.bufDrop n) := by
  simp [execXeDecode, hp, hverdict, State.takeFrame, State.matchBit, hcmd, State.bufDrop]

theorem execXeReturn_of_done (hp : s.phase = .done) : execXeReturn s = .next s.handBack := if_neg (not_not.mpr hp)

end MicroOperations

/-! ### O18, O19, O21 to O25: the request and the answers (41_exchange_engine.md R91 to R97) -/

/-- Settles O18: the parameter test comes before the look at the clock. -/
theorem callRejectsLongPayloads : Obligations.CallRejectsLongPayloads :=
  fun _ _ _ _ => ⟨execXeCall_of_oversize, execXeCall_of_busy⟩

/-- Settles O19, by what an accepted call latches under `before_write`. -/
theorem callLatchesTheRequest : Obligations.CallLatchesTheRequest := by
  intro s c p timeout hp hlen horigin
  refine (execXeCall_of_fits hp hlen).trans ?_
  simp [State.acceptCall, horigin, State.record, State.look, State.latch]

/-- Settles O21, by the two answers of a T.WRITE. -/
theorem writeSendsTheFrameOnce : Obligations.WriteSendsTheFrameOnce :=
  fun _ hp hlen hmute => ⟨fun ha => ha ▸ execXeWrite_of_ok hp hlen hmute ha,
    fun _ _ ha => ha ▸ execXeWrite_of_fail hp hlen hmute ha⟩

/-- Settles O22, by the two answers of a T.FLUSH. -/
theorem flushFollowsTheWrite : Obligations.FlushFollowsTheWrite := by
  refine fun s hp hmute => ⟨fun ha horigin => ?_, fun e ha => ha ▸ execXeFlush_of_fail hp hmute ha⟩
  refine (execXeFlush_of_ok hp hmute ha).trans ?_
  simp [State.requestSent, horigin, State.issueFlush, ha]

/-- Settles O23: XE.ENTER has no effect but the phase. -/
theorem enterStartsTheReadLoop : Obligations.EnterStartsTheReadLoop := fun _ => execXeEnter_of_sent

/-- Settles O24, by the one comparison of XE.CHECK. -/
theorem checkTestsTheDeadline : Obligations.CheckTestsTheDeadline :=
  fun _ hp => ⟨execXeCheck_of_reached hp, execXeCheck_of_before hp⟩

/-- Settles O25, by the answers of a T.READ; under `as_no_data` an end-of-stream arms the wait too. -/
theorem readReactsToTheAnswer : Obligations.ReadReactsToTheAnswer := by
  refine fun s hp hmute => ⟨fun bs ha hmin hmax => ?_, ?_, fun e ha => ?_⟩
  · exact ha ▸ execXeRead_of_data hp hmute ha ⟨hmin, hmax⟩
  · rintro a (rfl | ⟨rfl, hpolicy⟩) ha
    · exact ha ▸ execXeRead_of_noData hp hmute ha
    · have hread := execXeRead_of_eos hp hmute ha
      rw [State.endOfStream_of_asNoData (s := s.issueRead s.par.rdMax) hpolicy] at hread
      exact ha ▸ hread
  · exact ha ▸ execXeRead_of_fatal hp hmute ha

/-! ### O27 to O29, O32: the wait, the decode loop and the return (41_exchange_engine.md R98 to R107) -/

/-- Settles O27, by the one comparison of XE.WAIT. -/
theorem waitIsHeldUntilItsEnd : Obligations.WaitIsHeldUntilItsEnd :=
  fun _ hp => ⟨execXeWait_of_over hp, execXeWait_of_held hp⟩

/-- Settles O28: an Invalid verdict rests on at least two bytes. -/
theorem invalidDropsOneByte : Obligations.InvalidDropsOneByte := by
  intro s r hp hverdict
  have hlen := decodeBytes_invalid_length hverdict
  refine ⟨(execXeDecode_of_invalid hp hverdict).trans ?_, by rw [List.length_tail]; omega⟩
  rw [State.bufDrop, List.drop_one]

/-- Settles O29, by XE.DECODE's Incomplete branch. -/
theorem incompleteReadsOn : Obligations.IncompleteReadsOn := fun _ => execXeDecode_of_incomplete

/-- Settles O32: XE.RETURN is the hand-over. -/
theorem returnHandsOverTheResult : Obligations.ReturnHandsOverTheResult := fun _ => execXeReturn_of_done

/-! ### O30, O31, O35, O36: frames at the front of the buffer (41_exchange_engine.md R101 to R103) -/

section Frames

variable {s : State} {c : Byte} {p x : Bytes}

/-- R76: a buffer that begins with an encoded packet decodes to it. -/
theorem State.verdict_of_encodePacket (hbuf : s.buf = encodePacket c p ++ x) (hlen : p.length ≤ maxPayload) :
    s.verdict = .complete { cmd := c, payload := p } (p.length + 5) :=
  decodeBytes_complete_iff.mpr ⟨hlen, rfl, x, hbuf⟩

theorem encodePacket_append_drop (c : Byte) (p x : Bytes) : (encodePacket c p ++ x).drop (p.length + 5) = x :=
  List.drop_left' (Laws.EncodedLength.encodePacket_length c p)

/-- FRAME and GET_ANGLES have one meaning (R55, R57). -/
theorem exec_of_frame {i : Instr} (hi : i = .frame c p ∨ (c = getAnglesOpcode ∧ i = .getAngles p)) (s : State) :
    exec i s = receiveFrame { cmd := c, payload := p } s := by
  obtain rfl | ⟨rfl, rfl⟩ := hi <;> rfl

/-- R101: a frame that is not what DECODE finds at the front of the buffer has no step. -/
theorem receiveFrame_of_not_complete {pkt : Packet} (hp : s.phase = .awaitDecode)
    (hverdict : ∀ n, s.verdict ≠ .complete pkt n) : receiveFrame pkt s = .refused .frameNotInBuffer := by
  simp [receiveFrame, hp, hverdict]

end Frames

/-- Settles O30: the frame decodes to a packet with the request's opcode. -/
theorem matchEndsTheCall : Obligations.MatchEndsTheCall :=
  fun _ _ _ hp hlen hbuf => execXeDecode_of_match hp (State.verdict_of_encodePacket hbuf hlen) rfl

/-- Settles O31: the frame decodes to a packet with another opcode, and what follows it stays. -/
theorem mismatchIsRemoved : Obligations.MismatchIsRemoved := by
  intro s c p x hp hlen hcmd hbuf
  refine (execXeDecode_of_mismatch hp (State.verdict_of_encodePacket hbuf hlen) hcmd).trans ?_
  rw [State.bufDrop, hbuf, encodePacket_append_drop, hp]

/-- Settles O35: a frame at the front of the buffer does what XE.DECODE does. -/
theorem framesAreReceived : Obligations.FramesAreReceived := by
  intro s c p x i hi hp hlen hbuf
  have hdecode : exec i s = execXeDecode s :=
    (exec_of_frame hi s).trans (receiveFrame_eq_execXeDecode (State.verdict_of_encodePacket hbuf hlen))
  rw [hdecode]
  refine ⟨?_, fun hcmd => mismatchIsRemoved s c p x hp hlen hcmd hbuf⟩
  rintro rfl
  exact matchEndsTheCall s p x hp hlen hbuf

/-- Settles O36, by XE.DECODE's Complete branch and the refusal of every other buffer. -/
theorem frameAgreesWithDecode : Obligations.FrameAgreesWithDecode := by
  refine fun s c p hp => ⟨fun ⟨n, hverdict⟩ => ?_, fun hverdict => ?_⟩
  · have hframe := receiveFrame_eq_execXeDecode (s := s) hverdict
    exact ⟨hframe, fun hc => (exec_of_frame (.inr ⟨hc, rfl⟩) s).trans hframe⟩
  · have hframe := receiveFrame_of_not_complete hp hverdict
    exact ⟨hframe, fun hc => (exec_of_frame (.inr ⟨hc, rfl⟩) s).trans hframe⟩

/-! ### O33: the micro-operation of a phase (10_state.md R15; 41_exchange_engine.md R106) -/

/-- A guarded meaning is turned away by its guard alone, when the rest is not turned away. -/
theorem notEnabled_iff_guard {guard : Prop} [Decidable guard] {rest : Host.Outcome State Fault Refusal}
    (hrest : rest ≠ .refused .notEnabled) :
    (if guard then .refused .notEnabled else rest) = .refused .notEnabled ↔ guard := by
  split_ifs with h <;> simp [h, hrest]

/-- Each micro-operation is turned away exactly outside its phase: every branch behind its guard answers otherwise. -/
theorem microOp_notEnabled_iff {ph : Phase} {i : Instr} (hi : ph.microOp = some i) (s : State) :
    exec i s = .refused .notEnabled ↔ s.phase ≠ ph := by
  cases ph <;> cases hi
  all_goals
    refine notEnabled_iff_guard ?_
    repeat' split
    all_goals nofun

theorem Phase.eq_of_microOp {ph ph' : Phase} {i : Instr} (h : ph.microOp = some i) (h' : ph'.microOp = some i) :
    ph = ph' := by
  cases ph <;> cases h <;> cases ph' <;> cases h' <;> rfl

/-- Settles O33: each of the eight micro-operations has one phase, and its guard is that phase. -/
theorem oneMicroOperationIsEnabled : Obligations.OneMicroOperationIsEnabled := by
  intro s i hi
  obtain ⟨ph, -, hph⟩ : ∃ ph ∈ [Phase.sendWrite, .sendFlush, .sent, .awaitCheck, .awaitRead, .awaitWait, .awaitDecode,
      .done], ph.microOp = some i := List.mem_filterMap.mp hi
  refine (microOp_notEnabled_iff hph s).trans (not_congr ⟨?_, fun h => Phase.eq_of_microOp h hph⟩)
  rintro rfl
  exact hph

/-! ### O49: resynchronisation (41_exchange_engine.md R100, R112) -/

/-- R100: a byte that starts no header is dropped, whatever follows it. -/
theorem execXeDecode_of_noise {s : State} {x y : Byte} {rest : Bytes} (hp : s.phase = .awaitDecode)
    (hbuf : s.buf = x :: y :: rest) (hx : x ≠ headerByte) :
    execXeDecode s = .next { s with buf := y :: rest, rxBase := s.rxBase + 1 } := by
  have hverdict : s.verdict = .invalid .badHeader :=
    decodeBytes_badHeader_iff.mpr (by simp [hbuf, byteAt, hx])
  refine (execXeDecode_of_invalid hp hverdict).trans ?_
  rw [State.bufDrop, hbuf, List.drop_one, List.tail_cons]

/-- Settles O49: neither 01 nor 02 is a header byte. -/
theorem resyncRecoversTheFrame : Obligations.ResyncRecoversTheFrame :=
  fun s _ _ hp hlen hbuf =>
    ⟨execXeDecode_of_noise hp hbuf (by decide), execXeDecode_of_noise hp rfl (by decide),
      decodeBytes_encodePacket s.par.lenCheck _ hlen⟩

end Sys2Proof.Machine

/-! ### Runs of the engine (41_exchange_engine.md R90, R106) -/

namespace Sys2Proof.Machine

variable {s t : State} {i : Instr}

/-- Go on from a next state; a stop stays. -/
def andThen (o : Host.Outcome State Fault Refusal) (f : State → Host.Outcome State Fault Refusal) :
    Host.Outcome State Fault Refusal :=
  match o with
  | .next t => f t
  | .fault r => .fault r
  | .refused r => .refused r

@[simp] theorem andThen_next (t : State) (f : State → Host.Outcome State Fault Refusal) :
    andThen (.next t) f = f t := rfl

@[simp] theorem andThen_fault (r : Fault) (f : State → Host.Outcome State Fault Refusal) :
    andThen (.fault r) f = .fault r := rfl

@[simp] theorem andThen_refused (r : Refusal) (f : State → Host.Outcome State Fault Refusal) :
    andThen (.refused r) f = .refused r := rfl

/-- R106: the phase's micro-operation is the one the engine runs. -/
theorem microStep_of_microOp (hi : s.phase.microOp = some i) : microStep s = exec i s := by
  cases hp : s.phase <;> rw [hp] at hi <;> cases hi <;> simp only [microStep, hp, exec]

theorem runCall_of_idle (hp : s.phase = .idle) (n : Nat) : runCall n s = .next s := by
  cases n with
  | zero => rfl
  | succ n => exact if_pos hp

theorem runCall_succ (hp : s.phase ≠ .idle) (n : Nat) : runCall (n + 1) s = andThen (microStep s) (runCall n) := by
  rw [runCall, if_neg hp]
  cases microStep s <;> rfl

theorem runCall_of_microOp (hi : s.phase.microOp = some i) (n : Nat) :
    runCall (n + 1) s = andThen (exec i s) (runCall n) := by
  have hp : s.phase ≠ .idle := fun hp => by rw [hp] at hi; cases hi
  rw [runCall_succ hp, microStep_of_microOp hi]

theorem runCall_of_exec {n : Nat} {o : Host.Outcome State Fault Refusal} (hi : s.phase.microOp = some i)
    (h : exec i s = .next t) (ho : runCall n t = o) : runCall (n + 1) s = o := by
  rw [runCall_of_microOp hi, h, andThen_next, ho]

theorem runCall_add (m n : Nat) (s : State) : runCall (m + n) s = andThen (runCall m s) (runCall n) := by
  induction m generalizing s with
  | zero => rw [Nat.zero_add]; rfl
  | succ m ih =>
    by_cases hp : s.phase = .idle
    · simp only [runCall_of_idle hp, andThen_next]
    · rw [Nat.succ_add, runCall_succ hp, runCall_succ hp]
      cases microStep s with
      | next t => exact ih t
      | fault r => rfl
      | refused r => rfl

/-- A run that has come back to Idle or stopped comes to nothing else. -/
theorem runCall_of_ended {m n : Nat} (hended : ∀ t, runCall n s = .next t → t.phase = .idle) (hle : n ≤ m) :
    runCall m s = runCall n s := by
  obtain ⟨k, rfl⟩ := Nat.exists_eq_add_of_le hle
  rw [runCall_add]
  cases hr : runCall n s with
  | next t => exact runCall_of_idle (hended t hr) k
  | fault r => rfl
  | refused r => rfl

theorem execSendAndAwait_eq (c : Byte) (p : Bytes) (timeout : Time) (s : State) :
    execSendAndAwait c p timeout s = andThen (execXeCall c p timeout s) (runCall (callBudget s)) := by
  rw [execSendAndAwait]
  cases execXeCall c p timeout s <;> rfl

/-! ### O47: the decode loop ends (41_exchange_engine.md R105) -/

/-- R105: a pass that goes on shortens the buffer, and needs two bytes to do so. -/
theorem decodeLoop_ends (hp : s.phase = .awaitDecode) :
    ∃ (n : Nat) (t : State), n ≤ max 1 s.buf.length ∧ runCall n s = .next t ∧
      (t.phase = .awaitCheck ∨ t.phase = .done) ∧ t.env = s.env ∧ t.trace = s.trace := by
  induction hlen : s.buf.length using Nat.strong_induction_on generalizing s with
  | _ len ih =>
    subst hlen
    have hrun (n : Nat) : runCall (n + 1) s = andThen (execXeDecode s) (runCall n) :=
      runCall_of_microOp (by rw [hp]; rfl) n
    have drop (k : Nat) (hk : 1 ≤ k) (h2 : 2 ≤ s.buf.length) (hdrop : execXeDecode s = .next (s.bufDrop k)) :
        ∃ (n : Nat) (t : State), n ≤ max 1 s.buf.length ∧ runCall n s = .next t ∧
          (t.phase = .awaitCheck ∨ t.phase = .done) ∧ t.env = s.env ∧ t.trace = s.trace := by
      have hlen : (s.bufDrop k).buf.length = s.buf.length - k := List.length_drop
      obtain ⟨n, t, hn, ht, hend⟩ := ih _ (by omega) (s := s.bufDrop k) hp rfl
      exact ⟨n + 1, t, by omega, by rw [hrun, hdrop, andThen_next, ht], hend⟩
    cases hv : s.verdict with
    | incomplete =>
      refine ⟨1, { s with phase := .awaitCheck }, le_max_left _ _, ?_, .inl rfl, rfl, rfl⟩
      rw [hrun, execXeDecode_of_incomplete hp hv]
      rfl
    | invalid r => exact drop 1 le_rfl (decodeBytes_invalid_length hv) (execXeDecode_of_invalid hp hv)
    | complete pkt k =>
      obtain ⟨hmin, -, hmax, -⟩ := decodeBytes_complete_length hv
      by_cases hcmd : pkt.cmd = s.reqCmd
      · refine ⟨1, (s.bufDrop k).finish (.ok pkt.payload), le_max_left _ _, ?_, .inr rfl, rfl, rfl⟩
        rw [hrun, execXeDecode_of_match hp hv hcmd]
        rfl
      · exact drop k (by omega) (by omega) (execXeDecode_of_mismatch hp hv hcmd)

/-- Settles O47, by induction on the length of the buffer. -/
theorem decodeLoopEnds : Obligations.DecodeLoopEnds := fun _ => decodeLoop_ends

/-! ### O43, O44: a whole call in one step (41_exchange_engine.md R90, R96, R102; 20_memory.md R47) -/

section WholeCall

variable {c : Byte} {p : Bytes} {timeout a : Time} {as : List Time} {ws : List WriteAnswer} {fs : List FlushAnswer}

theorem Env.look_of_advances {e : Env} (h : e.advances = a :: as) :
    e.look = { e with now := e.now + a, advances := as } := by
  simp [Env.look, Env.nextNow, h]

theorem Env.nextNow_of_advances {e : Env} (h : e.advances = a :: as) : e.nextNow = e.now + a := by
  simp [Env.nextNow, h]

theorem Env.readAnswer_of_reads {e : Env} {r : ReadAnswer} {rs : List ReadAnswer} (h : e.reads = r :: rs) (max : Nat) :
    e.readAnswer max = r := by
  simp [Env.readAnswer, h]

/-- The environment once a scripted transport has taken a request. -/
theorem Env.afterFlush_of_script {e : Env} (hwrites : e.writes = .ok :: ws) (hflushes : e.flushes = .ok :: fs)
    (hadvances : e.advances = a :: as) (bs : Bytes) :
    (e.look.afterWrite bs).afterFlush =
      { e with now := e.now + a, advances := as, writes := ws, flushes := fs, tx := e.tx ++ bs } := by
  simp [Env.look_of_advances hadvances, Env.afterWrite, Env.afterFlush, acceptedBytes, hwrites, hflushes]

/-- The request is sent, the deadline counted from a look at `now + a`, and the read loop entered (R92 to R95). -/
def State.sentRequest (s : State) (c : Byte) (p : Bytes) (timeout a : Time) (as : List Time) (ws : List WriteAnswer)
    (fs : List FlushAnswer) : State :=
  { s with
    phase := .awaitCheck, reqCmd := c, reqPayload := p, deadline := s.env.now + a + timeout, buf := [],
    rxBase := 0, rxSeen := 0, rx := [],
    env := { s.env with
      now := s.env.now + a, advances := as, writes := ws, flushes := fs, tx := s.env.tx ++ encodePacket c p },
    trace :=
      .tFlush .ok :: .tWrite (encodePacket c p) .ok :: .clk (s.env.now + a) :: .hCall c p timeout :: s.trace }

/-- R91 to R95: when the write and the flush succeed, three micro-operations after XE.CALL lead into the read loop. -/
theorem runCall_sentRequest (hp : s.phase = .idle) (hlen : p.length ≤ maxPayload)
    (horigin : s.par.deadlineOrigin = .beforeWrite) (hmute : s.env.mute = false) (hwrites : s.env.writes = .ok :: ws)
    (hflushes : s.env.flushes = .ok :: fs) (hadvances : s.env.advances = a :: as) (n : Nat) :
    andThen (execXeCall c p timeout s) (runCall (n + 3)) = runCall n (s.sentRequest c p timeout a as ws fs) := by
  have hcall : execXeCall c p timeout s = _ := callLatchesTheRequest s c p timeout hp hlen horigin
  rw [hcall, andThen_next]
  have hwrite : s.env.look.writeAnswer = .ok := by simp [Env.writeAnswer, hwrites]
  have hflush : (s.env.look.afterWrite (encodePacket c p)).flushAnswer = .ok := by simp [Env.flushAnswer, hflushes]
  refine runCall_of_exec rfl ((writeSendsTheFrameOnce _ rfl hlen (by simpa using hmute)).1 hwrite) ?_
  refine runCall_of_exec rfl ((flushFollowsTheWrite _ rfl (by simpa using hmute)).1 hflush horigin) ?_
  refine runCall_of_exec rfl (enterStartsTheReadLoop _ rfl) ?_
  rw [Env.afterFlush_of_script hwrites hflushes hadvances, Env.nextNow_of_advances hadvances]
  rfl

end WholeCall

/-- Settles O44: after the send, XE.CHECK ends the call and XE.RETURN hands its outcome over. -/
theorem sendTimesOutBeforeReading : Obligations.SendTimesOutBeforeReading := by
  intro s c p timeout a b as ws fs hp hlen horigin hmute hwrites hflushes hadvances hlate
  obtain ⟨n, hn⟩ : ∃ n, callBudget s = n + 2 + 3 := ⟨callBudget s - 5, by unfold callBudget; omega⟩
  rw [exec, execSendAndAwait_eq, hn, runCall_sentRequest hp hlen horigin hmute hwrites hflushes hadvances]
  have hnow : (s.sentRequest c p timeout a (b :: as) ws fs).env.nextNow = s.env.now + a + b :=
    Env.nextNow_of_advances rfl
  have hreached : s.env.now + a + timeout ≤ s.env.now + a + b := Nat.add_le_add_left hlate _
  refine runCall_of_exec rfl ((checkTestsTheDeadline _ rfl).1 (hnow ▸ hreached)) ?_
  refine runCall_of_exec rfl (returnHandsOverTheResult _ rfl) ?_
  rw [runCall_of_idle rfl, hnow, Env.look_of_advances rfl]
  rfl

/-- Settles O43: after the send XE.CHECK passes, XE.READ takes the frame in, XE.DECODE ends the call with its payload
and XE.RETURN hands it over. -/
theorem sendReturnsTheResponse : Obligations.SendReturnsTheResponse := by
  intro s c p q x timeout a b as ws fs rs hp hlen hq horigin hmute hwrites hflushes hreads hmax hadvances hearly
  obtain ⟨n, hn⟩ : ∃ n, callBudget s = n + 4 + 3 := ⟨callBudget s - 7, by unfold callBudget; omega⟩
  rw [exec, execSendAndAwait_eq, hn, runCall_sentRequest hp hlen horigin hmute hwrites hflushes hadvances]
  have hnow : (s.sentRequest c p timeout a (b :: as) ws fs).env.nextNow = s.env.now + a + b :=
    Env.nextNow_of_advances rfl
  have hbefore : s.env.now + a + b < s.env.now + a + timeout := Nat.add_lt_add_left hearly _
  refine runCall_of_exec rfl ((checkTestsTheDeadline _ rfl).2 (hnow ▸ hbefore)) ?_
  rw [hnow, Env.look_of_advances rfl]
  have hmin : 1 ≤ (encodePacket c q ++ x).length := by
    rw [List.length_append, Laws.EncodedLength.encodePacket_length]; omega
  refine runCall_of_exec rfl ((readReactsToTheAnswer _ rfl (by exact hmute)).1 (encodePacket c q ++ x)
    (by exact Env.readAnswer_of_reads hreads _) hmin (by exact hmax)) ?_
  refine runCall_of_exec rfl (matchEndsTheCall _ q x rfl hq rfl) ?_
  refine runCall_of_exec rfl (returnHandsOverTheResult _ rfl) ?_
  rw [runCall_of_idle rfl]
  simp [State.sentRequest, Env.afterRead, hreads]

end Sys2Proof.Machine

/-! ### O46: the reference program and the micro-operations (41_exchange_engine.md R90, R106) -/

namespace Sys2Proof.Machine

variable {s t : State} {i : Instr} {b b' waits : Nat} {ends : List Phase} {o : Host.Outcome State Fault Refusal}

/-- The program's outcome `o` is one the engine's run from `s` comes to; where the program left off in no phase of
`ends`, a bound stopped it, and the run has made at least `b` micro-operations. -/
def Tracks (b : Nat) (ends : List Phase) (s : State) (o : Host.Outcome State Fault Refusal) : Prop :=
  ∃ m, runCall m s = o ∧ ∀ t, o = .next t → t.phase ∈ ends ∨ b ≤ m

theorem Tracks.refl (hp : s.phase ∈ ends) : Tracks b ends s (.next s) := by
  refine ⟨0, rfl, ?_⟩
  rintro _ ⟨⟩
  exact .inl hp

theorem Tracks.refl_zero : Tracks 0 ends s (.next s) := ⟨0, rfl, fun _ _ => .inr le_rfl⟩

theorem Tracks.of_le (hb : b' ≤ b) (h : Tracks b ends s o) : Tracks b' ends s o := by
  obtain ⟨m, hm, hend⟩ := h
  exact ⟨m, hm, fun t ht => (hend t ht).imp_right hb.trans⟩

/-- One micro-operation more, and counted. -/
theorem Tracks.of_exec_succ (hi : s.phase.microOp = some i) (h : exec i s = .next t) (ht : Tracks b ends t o) :
    Tracks (b + 1) ends s o := by
  obtain ⟨m, hm, hend⟩ := ht
  exact ⟨m + 1, runCall_of_exec hi h hm, fun u hu => (hend u hu).imp_right Nat.succ_le_succ⟩

theorem Tracks.of_exec (hi : s.phase.microOp = some i) (h : exec i s = .next t) (ht : Tracks b ends t o) :
    Tracks b ends s o :=
  (Tracks.of_exec_succ hi h ht).of_le b.le_succ

/-- A micro-operation that stops the machine stops the program. -/
theorem Tracks.of_stop (hi : s.phase.microOp = some i) (h : exec i s = o) (hstop : ∀ t, o ≠ .next t) :
    Tracks b ends s o := by
  refine ⟨1, ?_, fun t ht => absurd ht (hstop t)⟩
  rw [runCall_of_microOp hi, h]
  cases o with
  | next t => exact absurd rfl (hstop t)
  | fault r => rfl
  | refused r => rfl

/-- R107: the program's return is XE.RETURN. -/
theorem Tracks.handBack (hp : s.phase = .done) (hidle : Phase.idle ∈ ends) : Tracks b ends s (.next s.handBack) :=
  Tracks.of_exec (i := .xeReturn) (by rw [hp]; rfl) (execXeReturn_of_done hp) (.refl hidle)

/-- A pass of the read loop and then what follows it: the loop again in AwaitCheck, nothing otherwise. -/
theorem Tracks.andThen {f : State → Host.Outcome State Fault Refusal} (hb : b' ≤ b)
    (h : Tracks b [.awaitCheck, .idle] s o) (hloop : ∀ t, t.phase = .awaitCheck → Tracks b' [.idle] t (f t))
    (hleft : ∀ t, t.phase ≠ .awaitCheck → f t = .next t) : Tracks b' [.idle] s (andThen o f) := by
  obtain ⟨m, rfl, hend⟩ := h
  cases hm : runCall m s with
  | fault r => exact ⟨m, hm, by simp⟩
  | refused r => exact ⟨m, hm, by simp⟩
  | next t =>
    rw [andThen_next]
    by_cases hp : t.phase = .awaitCheck
    · obtain ⟨m', hm', hend'⟩ := hloop t hp
      refine ⟨m + m', by rw [runCall_add, hm, andThen_next, hm'], fun u hu => ?_⟩
      exact (hend' u hu).imp_right (Nat.le_add_left_of_le ·)
    · rw [hleft t hp]
      refine ⟨m, hm, ?_⟩
      rintro _ ⟨⟩
      simpa [hp] using (hend t hm).imp_right hb.trans

/-! #### The two inner loops -/

/-- R99 to R105: the decode loop of the program. -/
theorem refInner_tracks (n : Nat) (hp : s.phase = .awaitDecode) (hn : s.buf.length < n) :
    Tracks b [.awaitCheck, .idle] s (.next (refInner n s)) := by
  induction n generalizing s with
  | zero => omega
  | succ n ih =>
    have hi : s.phase.microOp = some .xeDecode := by rw [hp]; rfl
    have hdrop (k : Nat) (hk : 1 ≤ k) (hmax : k ≤ s.buf.length) (h : exec .xeDecode s = .next (s.bufDrop k)) :
        Tracks b [.awaitCheck, .idle] s (.next (refInner n (s.bufDrop k))) := by
      have hlen : (s.bufDrop k).buf.length = s.buf.length - k := List.length_drop
      exact .of_exec hi h (ih hp (by omega))
    rw [refInner]
    cases hv : s.verdict with
    | incomplete => exact .of_exec hi (execXeDecode_of_incomplete hp hv) (.refl (by simp))
    | invalid r =>
      have hmin := decodeBytes_invalid_length hv
      exact hdrop 1 le_rfl (by omega) (execXeDecode_of_invalid hp hv)
    | complete pkt k =>
      obtain ⟨hmin, -, hmax, -⟩ := decodeBytes_complete_length hv
      dsimp only
      split_ifs with hcmd
      · exact .of_exec hi (execXeDecode_of_match hp hv hcmd) (.handBack rfl (by simp))
      · exact hdrop k (by omega) hmax (execXeDecode_of_mismatch hp hv hcmd)

/-- R98: the wait of the program, which makes a micro-operation at each look. -/
theorem refWait_tracks (n : Nat) (hp : s.phase = .awaitWait) :
    Tracks n [.awaitCheck, .idle] s (.next (refWait n s)) := by
  induction n generalizing s with
  | zero => exact .refl_zero
  | succ n ih =>
    have hi : s.phase.microOp = some .xeWait := by rw [hp]; rfl
    have hlook : s.look.env.now = s.env.nextNow := s.env.look_now
    rw [refWait]
    split_ifs with hnow <;> rw [hlook] at hnow
    · exact .of_exec_succ hi (execXeWait_of_held hp hnow) (ih hp)
    · exact .of_exec hi (execXeWait_of_over hp (not_lt.mp hnow)) (.refl (by simp))

/-! #### The read loop -/

/-- R97: the program's read and its reaction to each answer. -/
theorem refRead_tracks (hp : s.phase = .awaitRead) : Tracks waits [.awaitCheck, .idle] s (refRead waits s) := by
  have hi : s.phase.microOp = some .xeRead := by rw [hp]; rfl
  rw [refRead]
  split_ifs with hmute
  · exact .of_stop hi (execXeRead_of_mute hp hmute) (by simp)
  replace hmute : s.env.mute = false := Bool.not_eq_true _ ▸ hmute
  have hwait (h : exec .xeRead s = .next (s.issueRead s.par.rdMax).armWait) :
      Tracks waits [.awaitCheck, .idle] s (.next (refWait waits (s.issueRead s.par.rdMax).armWait)) :=
    .of_exec hi h (refWait_tracks waits rfl)
  cases ha : s.env.readAnswer s.par.rdMax with
  | fatal e => exact .of_exec hi (execXeRead_of_fatal hp hmute ha) (.handBack rfl (by simp))
  | noData => exact hwait (execXeRead_of_noData hp hmute ha)
  | eos =>
    have heos := execXeRead_of_eos hp hmute ha
    cases hpolicy : s.par.eosPolicy with
    | asNoData => exact hwait (State.endOfStream_of_asNoData (s := s.issueRead s.par.rdMax) hpolicy ▸ heos)
    | asIoFailure =>
      have hdone : (s.issueRead s.par.rdMax).endOfStream.phase = .done := by simp [State.endOfStream, hpolicy]
      exact .of_exec hi heos (.handBack hdone (by simp))
  | data bs =>
    dsimp only
    split_ifs with hlen
    · refine .of_exec hi (execXeRead_of_data hp hmute ha hlen) (refInner_tracks _ rfl ?_)
      simp
    · have htypes : answerInTypes s.par.rdMax (.data bs) = false := by
        rwa [← Bool.not_eq_true, answerInTypes_data_iff]
      exact .of_stop hi (execXeRead_of_outsideTypes hp hmute ha htypes) (by simp)

theorem refLoop_of_left (hp : s.phase ≠ .awaitCheck) (n : Nat) : refLoop waits n s = .next s := by
  cases n with
  | zero => rfl
  | succ n => exact if_pos hp

theorem refLoop_succ (hp : s.phase = .awaitCheck) (n : Nat) :
    refLoop waits (n + 1) s = andThen (refPass waits s) (refLoop waits n) := by
  rw [refLoop, if_neg (not_not.mpr hp)]
  cases refPass waits s <;> rfl

/-- R96: each pass of the read loop makes a micro-operation, the deadline test. -/
theorem refLoop_tracks (n : Nat) (hp : s.phase = .awaitCheck) :
    Tracks (min waits n) [.idle] s (refLoop waits n s) := by
  induction n generalizing s with
  | zero => exact Tracks.refl_zero.of_le (min_le_right _ _)
  | succ n ih =>
    have hi : s.phase.microOp = some .xeCheck := by rw [hp]; rfl
    have hlook : s.look.env.now = s.env.nextNow := s.env.look_now
    rw [refLoop_succ hp, refPass]
    split_ifs with hnow <;> rw [hlook] at hnow
    · rw [andThen_next, refLoop_of_left (by simp [refReturn])]
      exact .of_exec hi (execXeCheck_of_reached hp hnow) (.handBack rfl (by simp))
    · refine (Tracks.of_exec_succ hi (execXeCheck_of_before hp (not_le.mp hnow)) ?_).of_le
        (b := min waits n + 1) (by omega)
      exact (refRead_tracks rfl).andThen (min_le_left _ _) (fun t => ih) fun t ht => refLoop_of_left ht n

/-! #### The call -/

/-- R91: a rejected call has only to return. -/
theorem refCall_tracks_of_oversize {c : Byte} {p : Bytes} {timeout : Time} {loops : Nat} (hp : s.phase = .idle)
    (hlong : maxPayload < p.length) :
    Tracks b [.idle] { s.record (.hCall c p timeout) with result := .invalidParameter, phase := .done }
      (refCall waits loops c p timeout s) := by
  rw [refCall, if_neg (not_not.mpr hp)]
  dsimp only
  rw [if_pos hlong]
  exact .handBack rfl (by simp)

/-- R92 to R95: an accepted call sends its request and enters the read loop, or ends with the transport's failure. -/
theorem refCall_tracks_of_fits {c : Byte} {p : Bytes} {timeout : Time} {loops : Nat} (hp : s.phase = .idle)
    (hlen : p.length ≤ maxPayload) :
    Tracks (min waits loops) [.idle] ((s.record (.hCall c p timeout)).acceptCall c p timeout)
      (refCall waits loops c p timeout s) := by
  rw [refCall, if_neg (not_not.mpr hp)]
  dsimp only
  rw [if_neg hlen.not_gt]
  have hphase := (s.record (.hCall c p timeout)).acceptCall_phase c p timeout
  have hcmd := (s.record (.hCall c p timeout)).acceptCall_reqCmd c p timeout
  have hpayload := (s.record (.hCall c p timeout)).acceptCall_reqPayload c p timeout
  generalize (s.record (.hCall c p timeout)).acceptCall c p timeout = u at *
  subst hcmd hpayload
  have hi : u.phase.microOp = some .xeWrite := by rw [hphase]; rfl
  split_ifs with hmute
  · exact .of_stop hi (execXeWrite_of_mute hphase hlen hmute) (by simp)
  replace hmute : u.env.mute = false := Bool.not_eq_true _ ▸ hmute
  cases ha : u.env.writeAnswer with
  | fail e n => exact .of_exec hi (execXeWrite_of_fail hphase hlen hmute ha) (.handBack rfl (by simp))
  | ok =>
    refine .of_exec hi (execXeWrite_of_ok hphase hlen hmute ha) ?_
    dsimp only
    cases hf : (u.issueWrite (encodePacket u.reqCmd u.reqPayload)).env.flushAnswer with
    | fail e =>
      exact .of_exec (i := .xeFlush) rfl (execXeFlush_of_fail rfl (by simpa using hmute) hf) (.handBack rfl (by simp))
    | ok =>
      refine .of_exec (i := .xeFlush) rfl (execXeFlush_of_ok rfl (by simpa using hmute) hf) ?_
      refine .of_exec (i := .xeEnter) (by rw [State.requestSent_phase]; rfl) (execXeEnter_of_sent (by simp)) ?_
      exact refLoop_tracks loops rfl

/-- R90: the program after XE.CALL. -/
theorem refCall_tracks (c : Byte) (p : Bytes) (timeout : Time) (hp : s.phase = .idle) :
    ∃ u, execXeCall c p timeout s = .next u ∧
      ∀ waits loops, Tracks (min waits loops) [.idle] u (refCall waits loops c p timeout s) := by
  obtain hlong | hlen := Nat.lt_or_ge maxPayload p.length
  · exact ⟨_, execXeCall_of_oversize hp hlong, fun _ _ => refCall_tracks_of_oversize hp hlong⟩
  · exact ⟨_, execXeCall_of_fits hp hlen, fun _ _ => refCall_tracks_of_fits hp hlen⟩

/-- Settles O46: the program is a run of the micro-operations; with both bounds at `n`, a run that ends within `n` of
them is one no bound has stopped. -/
theorem referenceProgramIsTheMicroOperations : Obligations.ReferenceProgramIsTheMicroOperations := by
  intro s c p timeout hp
  obtain ⟨u, hu, htracks⟩ := refCall_tracks c p timeout hp
  refine ⟨u, hu, fun waits loops => ?_, fun n hended => ⟨n, n, ?_⟩⟩
  · obtain ⟨m, hm, -⟩ := htracks waits loops
    exact ⟨m, hm.symm⟩
  · obtain ⟨m, hm, hend⟩ := htracks n n
    rw [← hm]
    obtain hlt | hle := Nat.lt_or_ge m n
    · refine (runCall_of_ended (fun t ht => ?_) hlt.le).symm
      simpa [hlt.not_ge] using hend t (hm ▸ ht)
    · exact runCall_of_ended hended hle

end Sys2Proof.Machine

/-! ### The transport's answers: what each T.* operation does in its phase (42_transport.md R121 to R128) -/

namespace Sys2Proof.Machine

section Transport

variable {s : State} {e : Env} {bytes bs : Bytes} {max : Nat} {a : ReadAnswer} {as : List ReadAnswer}

theorem execTWrite_of_answering (hp : s.phase = .sendWrite) (hmute : s.env.mute = false) :
    execTWrite bytes s = .next (s.issueWrite bytes) := by
  simp [execTWrite, hp, hmute]

theorem execTWrite_of_mute (hp : s.phase = .sendWrite) (hmute : s.env.mute = true) :
    execTWrite bytes s = .fault .transportNeverAnswers := by
  simp [execTWrite, hp, hmute]

theorem execTFlush_of_answering (hp : s.phase = .sendFlush) (hmute : s.env.mute = false) :
    execTFlush s = .next s.issueFlush := by
  simp [execTFlush, hp, hmute]

theorem execTFlush_of_mute (hp : s.phase = .sendFlush) (hmute : s.env.mute = true) :
    execTFlush s = .fault .transportNeverAnswers := by
  simp [execTFlush, hp, hmute]

theorem execXeFlush_of_mute (hp : s.phase = .sendFlush) (hmute : s.env.mute = true) :
    execXeFlush s = .fault .transportNeverAnswers := by
  simp [execXeFlush, hp, hmute]

theorem execTRead_of_inTypes (hp : s.phase = .awaitRead) (hmute : s.env.mute = false)
    (htypes : answerInTypes (min max s.par.rdMax) (s.env.readAnswer (min max s.par.rdMax)) = true) :
    execTRead max s = .next (s.issueRead (min max s.par.rdMax)) := by
  simp [execTRead, readLimit, hp, hmute, htypes]

theorem execTRead_of_outsideTypes (hp : s.phase = .awaitRead) (hmute : s.env.mute = false)
    (htypes : answerInTypes (min max s.par.rdMax) (s.env.readAnswer (min max s.par.rdMax)) = false) :
    execTRead max s = .refused .answerOutsideTypes := by
  simp [execTRead, readLimit, hp, hmute, htypes]

theorem execTRead_of_mute (hp : s.phase = .awaitRead) (hmute : s.env.mute = true) :
    execTRead max s = .fault .transportNeverAnswers := by
  simp [execTRead, hp, hmute]

/-- R124, D22: the two ways in which delivered bytes are outside the types. -/
theorem answerInTypes_data_eq_false_iff :
    answerInTypes max (.data bs) = false ↔ bs.length = 0 ∨ max < bs.length := by
  rw [← Bool.not_eq_true, answerInTypes_data_iff]
  omega

theorem Env.afterRead_of_reads (hreads : e.reads = a :: as) : e.afterRead = { e with reads := as } := by
  simp [Env.afterRead, hreads]

theorem Env.readAnswer_of_readsThen (hreads : e.reads = []) (hthen : e.readsThen = some a) :
    e.readAnswer max = a := by
  simp [Env.readAnswer, hreads, hthen]

theorem Env.afterRead_of_readsThen (hreads : e.reads = []) (hthen : e.readsThen = some a) : e.afterRead = e := by
  simp [Env.afterRead, hreads, hthen]

theorem Env.readAnswer_inTypes_of_free (hreads : e.reads = []) (hthen : e.readsThen = none) (hmax : 1 ≤ max) :
    answerInTypes max (e.readAnswer max) = true :=
  e.readAnswer_inTypes max hmax (by simp [hreads]) (by simp [hthen])

theorem Env.afterRead_of_free (hreads : e.reads = []) (hthen : e.readsThen = none) :
    e.afterRead = { e with draws := e.draws + 1 } := by
  simp [Env.afterRead, hreads, hthen]

/-- R126: under `as_io_failure` an end-of-stream ends the call with a drawn cause. -/
theorem State.endOfStream_of_asIoFailure (hpolicy : s.par.eosPolicy = .asIoFailure) :
    s.endOfStream =
      { s with env := { s.env with draws := s.env.draws + 1 } }.finish (.ioFailed (Config.eosCause s.env.draws)) := by
  simp [State.endOfStream, hpolicy]

end Transport

/-! ### O26, O37 to O40: the answers inside the types, and those that stop the machine (42_transport.md R121 to R128) -/

/-- Settles O26: the cause is the drawn one. -/
theorem eosMayEndTheCall : Obligations.EosMayEndTheCall := by
  intro s hp hmute hpolicy ha
  have hread := execXeRead_of_eos hp hmute ha
  rw [State.endOfStream_of_asIoFailure (s := s.issueRead s.par.rdMax) hpolicy] at hread
  refine ⟨Config.eosCause s.env.afterRead.draws, ?_⟩
  rw [← ha]
  exact hread

/-- Settles O37: the TX stream grows by the bytes accepted under the answer. -/
theorem transportWriteAcceptsBytes : Obligations.TransportWriteAcceptsBytes := by
  intro s bs hp hmute
  have htx := s.env.afterWrite_tx bs
  refine ⟨execTWrite_of_answering hp hmute, fun ha => ?_, fun e n ha => ?_, s.env.afterWrite_now bs,
    s.env.afterWrite_reads bs, s.env.afterWrite_flushes bs⟩
  · rw [htx, ha, acceptedBytes]
  · rw [htx, ha, acceptedBytes]

/-- Settles O38, by the frame of a T.FLUSH. -/
theorem transportFlushTouchesNoStream : Obligations.TransportFlushTouchesNoStream :=
  fun s hp hmute => ⟨execTFlush_of_answering hp hmute, s.env.afterFlush_tx, s.env.afterFlush_reads,
    s.env.afterFlush_now, s.env.afterFlush_writes⟩

/-- Settles O39, by where the answer comes from: the script, its constant end, or a free draw. -/
theorem transportReadIsDestructive : Obligations.TransportReadIsDestructive := by
  rintro s max _ hp hmute rfl
  refine ⟨execTRead_of_inTypes hp hmute, fun a as hreads => ?_, fun a hreads hthen => ?_,
    fun hreads hthen hlimit => ?_⟩
  · exact ⟨Env.readAnswer_of_reads hreads _, Env.afterRead_of_reads hreads⟩
  · exact ⟨Env.readAnswer_of_readsThen hreads hthen, Env.afterRead_of_readsThen hreads hthen⟩
  · exact ⟨Env.readAnswer_inTypes_of_free hreads hthen hlimit, Env.afterRead_of_free hreads hthen⟩

/-- Settles O40: the types are tested against the buffer offered, and silence is tested before the answer. -/
theorem brokenTransportsStopTheMachine : Obligations.BrokenTransportsStopTheMachine := by
  refine ⟨fun s max bs hp hmute hlen => ⟨fun ha => ?_, ?_⟩, fun s hmute => ?_⟩
  · exact execTRead_of_outsideTypes hp hmute (ha ▸ answerInTypes_data_eq_false_iff.mpr hlen)
  · rintro rfl ha
    rw [min_self] at hlen
    exact execXeRead_of_outsideTypes hp hmute ha (answerInTypes_data_eq_false_iff.mpr hlen)
  · exact ⟨fun hp hfits => execXeWrite_of_mute hp hfits hmute, fun hp => execXeFlush_of_mute hp hmute,
      fun hp => execXeRead_of_mute hp hmute, fun hp _ => execTWrite_of_mute hp hmute,
      fun hp => execTFlush_of_mute hp hmute, fun hp _ => execTRead_of_mute hp hmute⟩

end Sys2Proof.Machine

/-! ### O42, O45: a call that ends before it reads (41_exchange_engine.md R91, R93, R94, R107; 60_exceptions.md R131,
R134, R141) -/

namespace Sys2Proof.Machine

section EndsBeforeReading

variable {s : State} {e : Env} {a : Time} {as : List Time} {w : WriteAnswer} {ws : List WriteAnswer}
  {f : FlushAnswer} {fs : List FlushAnswer}

theorem Env.writeAnswer_of_writes (hwrites : e.writes = w :: ws) : e.writeAnswer = w := by
  simp only [Env.writeAnswer, hwrites]

theorem Env.flushAnswer_of_flushes (hflushes : e.flushes = f :: fs) : e.flushAnswer = f := by
  simp only [Env.flushAnswer, hflushes]

theorem Env.afterFlush_of_flushes (hflushes : e.flushes = f :: fs) : e.afterFlush = { e with flushes := fs } := by
  simp only [Env.afterFlush, hflushes]

/-- The environment after XE.CALL and XE.WRITE: one look at the clock and one answer of the script, used up. -/
theorem Env.look_afterWrite_of_script (hadvances : e.advances = a :: as) (hwrites : e.writes = w :: ws) (bs : Bytes) :
    e.look.afterWrite bs =
      { e with now := e.now + a, advances := as, writes := ws, tx := e.tx ++ acceptedBytes bs w } := by
  simp only [Env.look_of_advances hadvances, Env.afterWrite, hwrites]

/-- R107: in Done the call has only to return. -/
theorem runCall_of_done (hp : s.phase = .done) (n : Nat) : runCall (n + 1) s = .next s.handBack :=
  runCall_of_exec (i := .xeReturn) (by rw [hp]; rfl) (execXeReturn_of_done hp) (runCall_of_idle rfl n)

theorem exists_callBudget_eq_add {k : Nat} (hk : k ≤ 8) (s : State) : ∃ n, callBudget s = n + k :=
  Nat.exists_eq_add_of_le' (by unfold callBudget; omega)

end EndsBeforeReading

/-- Settles O42: XE.CALL ends the call before any look at the clock, and XE.RETURN hands InvalidParameter over. -/
theorem sendRejectsLongPayloads : Obligations.SendRejectsLongPayloads := by
  intro s c p timeout hp hlong
  obtain ⟨n, hn⟩ := exists_callBudget_eq_add (k := 1) (by omega) s
  rw [exec, execSendAndAwait_eq, execXeCall_of_oversize hp hlong, andThen_next, hn, runCall_of_done rfl,
    State.handBack, ← hp]
  rfl

/-- Settles O45: the XE.WRITE or the XE.FLUSH that fails ends the call, and XE.RETURN hands the cause over. -/
theorem sendFailsWithTheTransport : Obligations.SendFailsWithTheTransport := by
  intro s c p timeout a as e n ws fs hp hlen horigin hmute hadvances
  obtain ⟨k, hk⟩ := exists_callBudget_eq_add (k := 3) (by omega) s
  have hcall : execXeCall c p timeout s = _ := callLatchesTheRequest s c p timeout hp hlen horigin
  rw [exec, execSendAndAwait_eq, hcall, andThen_next, hk, Env.nextNow_of_advances hadvances]
  have hmuteLook : s.env.look.mute = false := s.env.look_mute.trans hmute
  refine ⟨fun hwrites => ?_, fun hwrites hflushes => ?_⟩
  · have hfail : s.env.look.writeAnswer = .fail e n := Env.writeAnswer_of_writes (s.env.look_writes.trans hwrites)
    refine runCall_of_exec rfl ((writeSendsTheFrameOnce _ rfl hlen hmuteLook).2 e n hfail) ?_
    rw [runCall_of_done rfl, Env.look_afterWrite_of_script hadvances hwrites]
    rfl
  · have hok : s.env.look.writeAnswer = .ok := Env.writeAnswer_of_writes (s.env.look_writes.trans hwrites)
    refine runCall_of_exec rfl ((writeSendsTheFrameOnce _ rfl hlen hmuteLook).1 hok) ?_
    have hunflushed : (s.env.look.afterWrite (encodePacket c p)).flushes = .fail e :: fs := by simpa using hflushes
    refine runCall_of_exec rfl ((flushFollowsTheWrite _ rfl (by simpa using hmute)).2 e
      (Env.flushAnswer_of_flushes hunflushed)) ?_
    rw [runCall_of_done rfl, Env.afterFlush_of_flushes hunflushed, Env.look_afterWrite_of_script hadvances hwrites]
    rfl

end Sys2Proof.Machine

/-! ### O34: no second call (70_reset_and_hazards.md R170) -/

namespace Sys2Proof.Machine

/-- Settles O34: SEND_AND_AWAIT begins with XE.CALL, whose guard is Idle. -/
theorem noSecondCall : Obligations.NoSecondCall := by
  intro s c p timeout hp
  have hcall : execXeCall c p timeout s = .refused .notReentrant := execXeCall_of_busy hp
  exact ⟨hcall, by rw [exec, execSendAndAwait_eq, hcall, andThen_refused]⟩

/-! ### Where the engine's run goes (10_state.md R26) -/

variable {s t u : State} {d : Time}

/-- R26's arrows: the phases a phase's micro-operation can lead to. XE.WAIT may hold (log 6), and Idle stays (log 7). -/
def Phase.arrows : Phase → List Phase
  | .idle => [.idle]
  | .sendWrite => [.sendFlush, .done]
  | .sendFlush => [.sent, .done]
  | .sent => [.awaitCheck]
  | .awaitCheck => [.awaitRead, .done]
  | .awaitRead => [.awaitDecode, .awaitWait, .done]
  | .awaitWait => [.awaitWait, .awaitCheck]
  | .awaitDecode => [.awaitCheck, .awaitDecode, .done]
  | .done => [.idle]

theorem State.endOfStream_phase (s : State) : s.endOfStream.phase = .awaitWait ∨ s.endOfStream.phase = .done := by
  obtain h | ⟨e, h⟩ := s.endOfStream_cases <;> simp [h]

theorem State.takeFrame_phase (s : State) (pkt : Packet) (n : Nat) :
    (s.takeFrame pkt n).phase = .done ∨ (s.takeFrame pkt n).phase = .awaitDecode := by
  obtain ⟨-, h⟩ | ⟨-, h⟩ := s.takeFrame_cases pkt n <;> simp [h]

/-- R26: a micro-operation goes along an arrow of its phase, and in the read loop it leaves the deadline alone. -/
theorem microStep_arrow (h : microStep s = .next t) :
    t.phase ∈ s.phase.arrows ∧ (s.phase.bufEmpty = false → t.deadline = s.deadline) := by
  cases hp : s.phase <;> simp only [microStep, hp] at h
  case idle => cases h; simp [Phase.arrows, Phase.bufEmpty, hp]
  case sendWrite =>
    obtain ⟨-, -, -, ⟨-, rfl⟩ | ⟨_, _, -, rfl⟩⟩ := execXeWrite_next h <;> simp [Phase.arrows, Phase.bufEmpty]
  case sendFlush =>
    obtain ⟨-, -, ⟨-, rfl⟩ | ⟨_, -, rfl⟩⟩ := execXeFlush_next h <;> simp [Phase.arrows, Phase.bufEmpty]
  case sent =>
    obtain ⟨-, rfl⟩ := execXeEnter_next h
    simp [Phase.arrows, Phase.bufEmpty]
  case awaitCheck =>
    obtain ⟨-, ⟨-, rfl⟩ | ⟨-, rfl⟩⟩ := execXeCheck_next h <;> simp [Phase.arrows]
  case awaitRead =>
    obtain ⟨-, -, ⟨_, -, -, -, rfl⟩ | ⟨-, rfl⟩ | ⟨-, rfl⟩ | ⟨_, -, rfl⟩⟩ := execXeRead_next h
    case inr.inr.inl => simpa [Phase.arrows] using .inr (State.endOfStream_phase _)
    all_goals simp [Phase.arrows]
  case awaitWait =>
    obtain ⟨-, ⟨-, rfl⟩ | ⟨-, rfl⟩⟩ := execXeWait_next h <;> simp [Phase.arrows, hp]
  case awaitDecode =>
    obtain ⟨-, ⟨-, rfl⟩ | ⟨_, -, rfl⟩ | ⟨pkt, n, -, rfl⟩⟩ := execXeDecode_next h
    case inr.inr => simpa [Phase.arrows] using .inr (s.takeFrame_phase pkt n).symm
    all_goals simp [Phase.arrows]
  case done =>
    obtain ⟨-, rfl⟩ := execXeReturn_next h
    simp [Phase.arrows, Phase.bufEmpty]

/-- No arrow leads from the read loop back to the send. -/
theorem Phase.arrows_of_readLoop {ph : Phase} (hloop : ph.bufEmpty = false) :
    ∀ ph' ∈ ph.arrows, ph' = .done ∨ ph'.bufEmpty = false := by
  revert hloop
  cases ph <;> decide

/-- The call has ended, or is in its read loop with the deadline `d`. -/
def State.PastSend (d : Time) (s : State) : Prop :=
  (s.phase = .done ∨ s.phase = .idle) ∨ s.phase.bufEmpty = false ∧ s.deadline = d

theorem microStep_keeps_pastSend (hs : s.PastSend d) (h : microStep s = .next t) : t.PastSend d := by
  obtain ⟨harrow, hdeadline⟩ := microStep_arrow h
  obtain hended | ⟨hloop, rfl⟩ := hs
  · have hidle : t.phase = .idle := by obtain hp | hp := hended <;> simpa [hp, Phase.arrows] using harrow
    exact .inl (.inr hidle)
  · obtain hdone | hloop' := Phase.arrows_of_readLoop hloop _ harrow
    · exact .inl (.inl hdone)
    · exact .inr ⟨hloop', hdeadline hloop⟩

/-- The engine's run from `s` comes to `t`. -/
def State.RunsTo (s t : State) : Prop := ∃ n, runCall n s = .next t

theorem State.RunsTo.refl (s : State) : s.RunsTo s := ⟨0, rfl⟩

theorem State.RunsTo.trans (hst : s.RunsTo t) (htu : t.RunsTo u) : s.RunsTo u := by
  obtain ⟨m, hm⟩ := hst
  obtain ⟨n, hn⟩ := htu
  exact ⟨m + n, by rw [runCall_add, hm, andThen_next, hn]⟩

theorem State.RunsTo.of_microStep (hp : s.phase ≠ .idle) (h : microStep s = .next t) : s.RunsTo t :=
  ⟨1, by rw [runCall_succ hp, h, andThen_next, runCall]⟩

theorem State.RunsTo.follows (h : s.RunsTo t) : t.Follows s :=
  let ⟨n, hn⟩ := h
  runCall_induct (P := fun u => u.Follows s) (fun _ _ hu hstep => (microStep_follows hstep).trans hu) n s t
    (State.follows_of_env_par rfl rfl) hn

theorem State.RunsTo.pastSend (h : s.RunsTo t) (hs : s.PastSend d) : t.PastSend d :=
  let ⟨n, hn⟩ := h
  runCall_induct (fun _ _ => microStep_keeps_pastSend) n s t hs hn

/-- Of two states of one run, one runs to the other. -/
theorem State.RunsTo.total (ht : s.RunsTo t) (hu : s.RunsTo u) : t.RunsTo u ∨ u.RunsTo t := by
  obtain ⟨m, hm⟩ := ht
  obtain ⟨n, hn⟩ := hu
  obtain hle | hle := Nat.le_total m n <;> obtain ⟨k, rfl⟩ := Nat.exists_eq_add_of_le hle
  · exact .inl ⟨k, by rwa [runCall_add, hm] at hn⟩
  · exact .inr ⟨k, by rwa [runCall_add, hn] at hm⟩

theorem State.RunsTo.eq_of_idle (h : s.RunsTo t) (hp : s.phase = .idle) : t = s := by
  obtain ⟨n, hn⟩ := h
  rw [runCall_of_idle hp] at hn
  cases hn
  rfl

/-! ### O48: every fair call ends (70_reset_and_hazards.md R175, R181; 41_exchange_engine.md R96, R105) -/

/-- R181: fairness is a property of the run, so it holds all along it. -/
theorem State.Fair.of_runsTo (hs : s.Fair) (ht : s.RunsTo t) : t.Fair := by
  have ⟨m, hm⟩ := ht
  have hrest (n : Nat) : runCall n t = runCall (m + n) s := by rw [runCall_add, hm, andThen_next]
  refine ⟨fun n f => hrest n ▸ hs.answers _ f, fun n r => hrest n ▸ hs.typed _ r, fun moment => ?_⟩
  obtain ⟨n, u, hu, hend⟩ := hs.clock moment
  obtain ⟨k, hk⟩ | hut := ht.total ⟨n, hu⟩
  · exact ⟨k, u, hk, hend⟩
  · refine ⟨0, t, rfl, hend.imp (fun hp => ?_) hut.follows.1.trans'⟩
    rw [hut.eq_of_idle hp, hp]

/-- R175: no micro-operation of a fair run stops. -/
theorem State.Fair.exists_microStep (hs : s.Fair) (hp : s.phase ≠ .idle) : ∃ t, microStep s = .next t := by
  have hrun : runCall 1 s = andThen (microStep s) (runCall 0) := runCall_succ hp 0
  cases h : microStep s with
  | next t => exact ⟨t, rfl⟩
  | fault f => exact absurd (hrun.trans (by rw [h, andThen_fault])) (hs.answers 1 f)
  | refused r => exact absurd (hrun.trans (by rw [h, andThen_refused])) (hs.typed 1 r)

/-- The run from `s` comes to the head of the read loop, or to Idle. -/
def State.ComesToCheck (s : State) : Prop := ∃ t, s.RunsTo t ∧ (t.phase = .awaitCheck ∨ t.phase = .idle)

theorem State.ComesToCheck.of_check (hp : s.phase = .awaitCheck) : s.ComesToCheck := ⟨s, .refl s, .inl hp⟩

theorem State.ComesToCheck.of_runsTo (hst : s.RunsTo t) (ht : t.ComesToCheck) : s.ComesToCheck :=
  let ⟨u, htu, hu⟩ := ht
  ⟨u, hst.trans htu, hu⟩

/-- R107: a call that has ended returns. -/
theorem State.runsTo_handBack (hp : s.phase = .done) : s.RunsTo s.handBack := ⟨1, runCall_of_done hp 0⟩

theorem State.ComesToCheck.of_done (hp : s.phase = .done) : s.ComesToCheck :=
  ⟨_, s.runsTo_handBack hp, .inr rfl⟩

/-- R105: the decode loop ends. -/
theorem State.ComesToCheck.of_decode (hp : s.phase = .awaitDecode) : s.ComesToCheck := by
  obtain ⟨n, t, -, ht, hcheck | hdone, -, -⟩ := decodeLoop_ends hp
  · exact ⟨t, ⟨n, ht⟩, .inl hcheck⟩
  · exact .of_runsTo ⟨n, ht⟩ (.of_done hdone)

theorem microStep_of_awaitWait (hp : s.phase = .awaitWait) : microStep s = execXeWait s :=
  microStep_of_microOp (i := .xeWait) (by rw [hp]; rfl)

/-- R98: a look at or after the wait's end leads back to the deadline test. -/
theorem State.ComesToCheck.of_wait_over (hp : s.phase = .awaitWait) (hnow : s.waitUntil ≤ s.env.nextNow) :
    s.ComesToCheck :=
  .of_runsTo (.of_microStep (by simp [hp]) ((microStep_of_awaitWait hp).trans (execXeWait_of_over hp hnow)))
    (.of_check rfl)

/-- R98: a wait is over at the latest where the run's clock reaches its end. -/
theorem State.ComesToCheck.of_wait_reached {n : Nat} (hp : s.phase = .awaitWait) (h : runCall n s = .next t)
    (hend : t.phase = .idle ∨ s.waitUntil ≤ t.env.now) : s.ComesToCheck := by
  induction n generalizing s with
  | zero =>
    obtain rfl : s = t := Host.Outcome.next.inj h
    have hnow : s.waitUntil ≤ s.env.now := hend.resolve_left (by simp [hp])
    exact .of_wait_over hp (hnow.trans s.env.now_le_nextNow)
  | succ n ih =>
    obtain hnow | hnow := Nat.lt_or_ge s.env.nextNow s.waitUntil
    · have hheld : microStep s = .next s.look := (microStep_of_awaitWait hp).trans (execXeWait_of_held hp hnow)
      rw [runCall_succ (by simp [hp]), hheld] at h
      exact .of_runsTo (.of_microStep (by simp [hp]) hheld) (ih hp h hend)
    · exact .of_wait_over hp hnow

/-- R7, R98: the clock is unbounded, so a wait is over some time. -/
theorem State.Fair.comesToCheck_of_wait (hs : s.Fair) (hp : s.phase = .awaitWait) : s.ComesToCheck :=
  let ⟨_, _, ht, hend⟩ := hs.clock s.waitUntil
  .of_wait_reached hp ht hend

/-- A fair run makes the next micro-operation, and goes on from one of its arrows. -/
theorem State.Fair.comesToCheck_of_arrows (hs : s.Fair) (hp : s.phase ≠ .idle)
    (h : ∀ t : State, t.Fair → t.phase ∈ s.phase.arrows → t.ComesToCheck) : s.ComesToCheck := by
  obtain ⟨t, ht⟩ := hs.exists_microStep hp
  have hst := State.RunsTo.of_microStep hp ht
  exact .of_runsTo hst (h t (hs.of_runsTo hst) (microStep_arrow ht).1)

theorem State.Fair.comesToCheck_of_read (hs : s.Fair) (hp : s.phase = .awaitRead) : s.ComesToCheck := by
  refine hs.comesToCheck_of_arrows (by simp [hp]) fun t ht harrow => ?_
  obtain h | h | h : t.phase = .awaitDecode ∨ t.phase = .awaitWait ∨ t.phase = .done := by
    simpa [hp, Phase.arrows] using harrow
  · exact .of_decode h
  · exact ht.comesToCheck_of_wait h
  · exact .of_done h

theorem State.Fair.comesToCheck_of_sent (hs : s.Fair) (hp : s.phase = .sent) : s.ComesToCheck :=
  hs.comesToCheck_of_arrows (by simp [hp]) fun _ _ harrow => .of_check (by simpa [hp, Phase.arrows] using harrow)

theorem State.Fair.comesToCheck_of_flush (hs : s.Fair) (hp : s.phase = .sendFlush) : s.ComesToCheck := by
  refine hs.comesToCheck_of_arrows (by simp [hp]) fun t ht harrow => ?_
  obtain h | h : t.phase = .sent ∨ t.phase = .done := by simpa [hp, Phase.arrows] using harrow
  · exact ht.comesToCheck_of_sent h
  · exact .of_done h

theorem State.Fair.comesToCheck_of_write (hs : s.Fair) (hp : s.phase = .sendWrite) : s.ComesToCheck := by
  refine hs.comesToCheck_of_arrows (by simp [hp]) fun t ht harrow => ?_
  obtain h | h : t.phase = .sendFlush ∨ t.phase = .done := by simpa [hp, Phase.arrows] using harrow
  · exact ht.comesToCheck_of_flush h
  · exact .of_done h

/-- Nothing between two deadline tests goes on for ever. -/
theorem State.Fair.comesToCheck (hs : s.Fair) : s.ComesToCheck := by
  cases hp : s.phase with
  | idle => exact ⟨s, .refl s, .inr hp⟩
  | sendWrite => exact hs.comesToCheck_of_write hp
  | sendFlush => exact hs.comesToCheck_of_flush hp
  | sent => exact hs.comesToCheck_of_sent hp
  | awaitCheck => exact .of_check hp
  | awaitRead => exact hs.comesToCheck_of_read hp
  | awaitWait => exact hs.comesToCheck_of_wait hp
  | awaitDecode => exact .of_decode hp
  | done => exact .of_done hp

/-- The run from `s` comes to Idle: the call ends and returns. -/
def State.Ends (s : State) : Prop := ∃ t, s.RunsTo t ∧ t.phase = .idle

theorem State.Ends.of_runsTo (hst : s.RunsTo t) (ht : t.Ends) : s.Ends :=
  let ⟨u, htu, hu⟩ := ht
  ⟨u, hst.trans htu, hu⟩

/-- R96, R107: a deadline test after the deadline ends the call. -/
theorem State.Ends.of_overdue (hp : s.phase = .awaitCheck) (hnow : s.deadline ≤ s.env.now) : s.Ends := by
  have hstep : microStep s = .next (s.look.finish .timedOut) :=
    (microStep_of_microOp (i := .xeCheck) (by rw [hp]; rfl)).trans
      (execXeCheck_of_reached hp (hnow.trans s.env.now_le_nextNow))
  exact ⟨_, (State.RunsTo.of_microStep (by simp [hp]) hstep).trans (State.runsTo_handBack rfl), rfl⟩

/-- R181: from the head of the read loop the clock passes the deadline, which stays where it is, and the next deadline
test ends the call. -/
theorem State.Fair.ends_of_check (hs : s.Fair) (hp : s.phase = .awaitCheck) : s.Ends := by
  obtain ⟨n, t, ht, hidle | hlate⟩ := hs.clock s.deadline
  · exact ⟨t, ⟨n, ht⟩, hidle⟩
  have hst : s.RunsTo t := ⟨n, ht⟩
  obtain ⟨u, htu, hcheck | hidle⟩ := (hs.of_runsTo hst).comesToCheck
  · have hsu := hst.trans htu
    obtain ⟨-, hdeadline⟩ : u.phase.bufEmpty = false ∧ u.deadline = s.deadline :=
      (hsu.pastSend (.inr ⟨by rw [hp]; rfl, rfl⟩)).resolve_left (by simp [hcheck])
    exact .of_runsTo hsu (.of_overdue hcheck (hdeadline ▸ hlate.trans htu.follows.1))
  · exact ⟨u, hst.trans htu, hidle⟩

/-- Settles O48: the run comes to a deadline test, and from there to one after the deadline. -/
theorem everyFairCallEnds : Obligations.EveryFairCallEnds := by
  intro s hs
  have hends : s.Ends := by
    obtain ⟨t, hst, hcheck | hidle⟩ := hs.comesToCheck
    · exact .of_runsTo hst ((hs.of_runsTo hst).ends_of_check hcheck)
    · exact ⟨t, hst, hidle⟩
  obtain ⟨t, ⟨n, ht⟩, hidle⟩ := hends
  exact ⟨n, t, ht, hidle⟩

end Sys2Proof.Machine

/-! ### O20: the deadline counts from the flush (92_eei_decisions.md D3) -/

namespace Sys2Proof.Machine

theorem State.acceptCall_of_afterFlush (s : State) (cmd : Byte) (payload : Bytes) (timeout : Time)
    (horigin : s.par.deadlineOrigin = .afterFlush) :
    s.acceptCall cmd payload timeout = s.latch cmd payload timeout := by
  simp only [State.acceptCall, horigin]

theorem State.requestSent_of_afterFlush (s : State) (horigin : s.par.deadlineOrigin = .afterFlush) :
    s.requestSent = { s.look with deadline := s.env.nextNow + s.deadline, phase := .sent } := by
  simp only [State.requestSent, horigin]

/-- Settles O20: under `after_flush` an accepted call only latches, and a sent request looks at the clock. -/
theorem deadlineMayStartAfterTheFlush : Obligations.DeadlineMayStartAfterTheFlush := by
  constructor
  · intro s c p timeout hp hlen horigin
    calc execXeCall c p timeout s
      _ = .next ((s.record (.hCall c p timeout)).acceptCall c p timeout) := execXeCall_of_fits hp hlen
      _ = .next ((s.record (.hCall c p timeout)).latch c p timeout) :=
        congrArg _ (State.acceptCall_of_afterFlush _ c p timeout horigin)
  · intro s hp hmute ha horigin
    have hsent := s.issueFlush.requestSent_of_afterFlush horigin
    calc execXeFlush s
      _ = .next s.issueFlush.requestSent := execXeFlush_of_ok hp hmute ha
      _ = _ := by rw [hsent]; simp only [State.look, State.issueFlush, ha]

end Sys2Proof.Machine
